-- ==== Sys2Proof/Word.lean ====
section
/-! DEFINITION. The widths of the CORE's data (spec/00_scope.md section 7): bytes, 32-bit words, 64-bit values.
Every value is unsigned and arithmetic on a width wraps (R183), which is BitVec's own arithmetic. -/

namespace Sys2Proof

/-- A byte, a character code or a buffer cell: 8 bits (R61). -/
abbrev Byte := BitVec 8

/-- A half of a hex pair: 4 bits (R67). -/
abbrev Nibble := BitVec 4

/-- A word of the cipher and of the register interface: 32 bits (R183, `REGW` of R10). -/
abbrev Word := BitVec 32

/-- The identifier's width: 64 bits (R142). -/
abbrev DWord := BitVec 64

end Sys2Proof
end

