-- ==== Sys2Proof/Config.lean ====
section
/-! DEFINITION. The named constants of R9, the open parameters of R10, and the free values the spec leaves open
(U5, U6 of spec/93_implementation_defined.md). -/

namespace Sys2Proof.Config

/-- `SOF` of R9: the start marker byte. -/
def sof : Byte := 0xC0#8
/-- `EOF_M` of R9: the end marker byte. -/
def eofM : Byte := 0xC2#8
/-- `S` of R9: the escape sentinel of the destuffer. -/
def sentinel : Byte := 0xC4#8
/-- `ID_LEN` of R9, in bytes. -/
def idLen : Nat := 8
/-- `KEY_LEN` of R9, in bytes. -/
def keyLen : Nat := 16
/-- `BLK_LEN` of R9, in bytes. -/
def blkLen : Nat := 8
/-- `ROUNDS` of R9: hardwired at 32 (R188). -/
def rounds : Nat := 32
/-- `DELTA` of R9. -/
def delta : Word := 0x9E3779B9#32
/-- `SUM0` of R9, as R176 computes it: `DELTA *32 ROUNDS`. -/
def sum0 : Word := delta * BitVec.ofNat 32 rounds
/-- `CK_CHARS` of R9: the hex characters TRIM drops. -/
def ckChars : Nat := 4
/-- `MIN_LEN` of R9: the least packet length that holds both markers. -/
def minLen : Nat := 4

/-- The default of the parameter `IN_CAP` (R10, D3). The parameter itself travels with the state, so that claims hold
for every capacity: assumption log entry 3. -/
def defaultInCap : Nat := 4096

/-- The least `IN_CAP` R10 admits (R11). -/
def leastInCap : Nat := 36

/-- `OUT_CAP`, the cells of OUTBUF: equal to `IN_CAP`, as R10 and U12 have it. The table of open parameters of
spec/92_eei_decisions.md gives that value as a default only and asks for at least `IN_CAP - 24`; that the model fixes it
is a DESIGN CHOICE (assumption log entry 20). -/
def outCap (inCap : Nat) : Nat := inCap

/-- `OUT_BASE` of R72: `0x1000 + 0x1000 * ceil(IN_CAP / 0x1000)`. -/
def outBase (inCap : Nat) : Nat := 0x1000 + 0x1000 * ((inCap + 0xFFF) / 0x1000)

/-- The value of the `n`-th unspecified host read of a cell (U5, U6: "any value"). No body: a free value.
Assumption log entry 4. -/
opaque freeByte : Nat → Byte

end Sys2Proof.Config
end

