-- ==== Sys2Proof/Machine/Operands.lean ====
section
/-! DEFINITION. Operand assembly (R100): hex digits, marker pairs, little-endian fields and chunks, as functions on
plain bytes. -/

namespace Sys2Proof.Machine

open Sys2Proof

/-! ## Characters -/

/-- `hexval(c)` of R96: the nibble a character denotes, none for every other code (R95). -/
def hexval (c : Byte) : Option Nibble :=
  if 0x30 ≤ c.toNat ∧ c.toNat ≤ 0x39 then some (BitVec.ofNat 4 (c.toNat - 0x30))
  else if 0x41 ≤ c.toNat ∧ c.toNat ≤ 0x46 then some (BitVec.ofNat 4 (c.toNat - 0x41 + 10))
  else if 0x61 ≤ c.toNat ∧ c.toNat ≤ 0x66 then some (BitVec.ofNat 4 (c.toNat - 0x61 + 10))
  else none

/-- `hexchar(n)` of R97: always a lowercase digit. -/
def hexchar (n : Nibble) : Byte :=
  if n.toNat < 10 then BitVec.ofNat 8 (0x30 + n.toNat) else BitVec.ofNat 8 (0x61 + n.toNat - 10)

/-- `lower(c)` of R98. -/
def lower (c : Byte) : Byte :=
  if 0x41 ≤ c.toNat ∧ c.toNat ≤ 0x5A then c + 0x20#8 else c

/-- R67: the first character of a pair is the high nibble. -/
def pairByte (high low : Nibble) : Byte := BitVec.ofNat 8 (16 * high.toNat + low.toNat)

/-- The high nibble of a byte, `b div 16` (R100). -/
def highNibble (b : Byte) : Nibble := BitVec.ofNat 4 (b.toNat / 16)

/-- The low nibble of a byte, `b mod 16` (R100). -/
def lowNibble (b : Byte) : Nibble := BitVec.ofNat 4 (b.toNat % 16)

/-- R99: the pair is the start marker, `SOF` of R9 as two characters with the letter in either case. -/
def isSof (first second : Byte) : Bool :=
  lower first == hexchar (highNibble Config.sof) && second == hexchar (lowNibble Config.sof)

/-- R99: the pair is the end marker, `EOF_M` of R9 as two characters with the letter in either case. -/
def isEofm (first second : Byte) : Bool :=
  lower first == hexchar (highNibble Config.eofM) && second == hexchar (lowNibble Config.eofM)

/-- The two characters of an output byte (R100, R130). -/
def hexPair (b : Byte) : List Byte := [hexchar (highNibble b), hexchar (lowNibble b)]

/-- `hexenc` of R131: the text HEXENC writes for a byte sequence (R130). -/
def hexenc : List Byte → List Byte
  | [] => []
  | b :: bs => hexPair b ++ hexenc bs

/-- The nibbles of a text, none if one character is no hex digit (R126). -/
def hexvals : List Byte → Option (List Nibble)
  | [] => some []
  | c :: cs =>
    match hexval c, hexvals cs with
    | some d, some ds => some (d :: ds)
    | _, _ => none

/-- `hexdec` of R131: the bytes HEXDEC reads from a text; none is EncodingError (R125, R126). -/
def hexdec : List Byte → Option (List Byte)
  | [] => some []
  | [_] => none
  | c0 :: c1 :: cs =>
    match hexval c0, hexval c1, hexdec cs with
    | some high, some low, some bs => some (pairByte high low :: bs)
    | _, _, _ => none

/-! ## Little-endian fields -/

/-- The unsigned integer of a byte sequence, least significant byte first (R66). -/
def leNat : List Byte → Nat
  | [] => 0
  | b :: bs => b.toNat + 256 * leNat bs

/-- `MemRead(B, i, n)` of R66. The rule defines it only when `i + n <= BLEN`; beyond the end the function takes the
missing bytes as 0, a DESIGN CHOICE (assumption log entry 21). Every stage checks the length first. -/
def memRead (bs : List Byte) (i n : Nat) : Nat := leNat ((bs.drop i).take n)

/-- The `n` bytes `MemWrite` of R66 stores for the value `v`, least significant first. -/
def leBytes : Nat → Nat → List Byte
  | 0, _ => []
  | n + 1, v => BitVec.ofNat 8 v :: leBytes n (v / 256)

/-! ## The destuffer's function and the cipher's chunks -/

/-- `ds(e, X)` of R165: the bytes the destuffer emits for the remaining input with the flag ESC. -/
def ds : Bool → List Byte → List Byte
  | _, [] => []
  | false, n :: xs => if n = Config.sentinel then ds true xs else n :: ds false xs
  | true, n :: xs =>
    if n = Config.sentinel then Config.sentinel :: ds false xs
    else if n = Config.sentinel + 1#8 then ds true xs
    else (n - 1#8) :: ds false xs

/-- The cutting of R171, with a bound on the number of chunks. -/
def chunksUpTo : Nat → List Byte → List (List Byte)
  | 0, _ => []
  | _ + 1, [] => []
  | fuel + 1, b :: bs => (b :: bs).take Config.blkLen :: chunksUpTo fuel ((b :: bs).drop Config.blkLen)

/-- The chunks of a byte sequence: consecutive pieces of 8 bytes, the last possibly shorter (R171). -/
def chunks (bs : List Byte) : List (List Byte) := chunksUpTo bs.length bs

end Sys2Proof.Machine
end

