-- ==== Sys2Proof/Syntax.lean ====
section
/-! DEFINITION. The 38 rows of spec/opcode_table.json as one type (R94, R105). Bits a row leaves free are operands. -/

namespace Sys2Proof

/-- One constructor per row of the opcode table, in the table's order. -/
inductive Instr where
  /-- HEX_0 to HEX_9: the digit characters `0` to `9` (CHAR rows, R96). -/
  | hex0 | hex1 | hex2 | hex3 | hex4 | hex5 | hex6 | hex7 | hex8 | hex9
  /-- HEX_UC_A to HEX_UC_F: the letters `A` to `F` (CHAR rows, R96). -/
  | hexUcA | hexUcB | hexUcC | hexUcD | hexUcE | hexUcF
  /-- HEX_LC_a to HEX_LC_f: the letters `a` to `f` (CHAR rows, R96). -/
  | hexLcA | hexLcB | hexLcC | hexLcD | hexLcE | hexLcF
  /-- SOF: the start marker pair; `lowerCase` is bit 13, the case of its letter (MARK row, R99). -/
  | sof (lowerCase : Bool)
  /-- EOFM: the end marker pair; `lowerCase` is bit 13, the case of its letter (MARK row, R99). -/
  | eofm (lowerCase : Bool)
  /-- LIT: a literal byte `n` met with ESC = 0 (STUFF row, R153). -/
  | lit (n : Byte)
  /-- ESC_OPEN: the sentinel met with ESC = 0 (STUFF row, R154). -/
  | escOpen
  /-- ESC_SELF: the sentinel met with ESC = 1 (STUFF row, R155). -/
  | escSelf
  /-- ESC_DEC: a byte `n` met with ESC = 1 that is emitted decremented (STUFF row, R156). -/
  | escDec (n : Byte)
  /-- ESC_CHAIN: the byte 0xC5 met with ESC = 1 (STUFF row, R157). -/
  | escChain
  /-- ESC_END: the end of STF met with ESC = 1 (STUFF_END row, R158). -/
  | escEnd
  /-- START: the host command; `ignored` is bits 31:1 of the value written to CTRL (CMD row, R104, R201). -/
  | start (ignored : BitVec 31)
  /-- FRAME: stage code 1 (STG row, R120). -/
  | frame
  /-- HEXDEC: stage code 2 (STG row, R125). -/
  | hexdec
  /-- IDEXT: stage code 3 (STG row, R140). -/
  | idext
  /-- DESTUFF: stage code 4 (STG row, R150). -/
  | destuff
  /-- CIPHER: stage code 5 (STG row, R170). -/
  | cipher
  /-- HEXENC: stage code 6 (STG row, R130). -/
  | hexenc
  /-- TRIM: stage code 7 (STG row, R200). -/
  | trim
deriving DecidableEq, Repr

/-- The formats of R94: what a pattern of the opcode table is matched against. -/
inductive Format where
  /-- One character code of TXT, 8 bits. -/
  | char
  /-- A marker pair of INBUF, 16 bits. -/
  | mark
  /-- The flag ESC and the next byte of STF, 9 bits. -/
  | stuff
  /-- The end of STF with ESC = 1, no bits. -/
  | stuffEnd
  /-- The value written to CTRL, 32 bits. -/
  | cmd
  /-- The value of STAGE, 3 bits. -/
  | stg
deriving DecidableEq, Repr

end Sys2Proof
end

