-- ==== Sys2Proof/WellFormed.lean ====
section
/-! DEFINITION. Which operands a row of the opcode table admits: the class rows LIT and ESC_DEC lose to the exact rows
(R102, R105), so a byte that selects an exact row is no operand of the class row. -/

namespace Sys2Proof

/-- R105: LIT stands for every byte but the sentinel; ESC_DEC for every byte but the sentinel and the one above it. -/
def Instr.wellFormed : Instr → Bool
  | .lit n => n != Config.sentinel
  | .escDec n => n != Config.sentinel && n != Config.sentinel + 1#8
  | .hex0 | .hex1 | .hex2 | .hex3 | .hex4 | .hex5 | .hex6 | .hex7 | .hex8 | .hex9
  | .hexUcA | .hexUcB | .hexUcC | .hexUcD | .hexUcE | .hexUcF
  | .hexLcA | .hexLcB | .hexLcC | .hexLcD | .hexLcE | .hexLcF
  | .sof _ | .eofm _ | .escOpen | .escSelf | .escChain | .escEnd | .start _
  | .frame | .hexdec | .idext | .destuff | .cipher | .hexenc | .trim => true

/-- An instruction whose operands its row admits. -/
abbrev WellFormed (i : Instr) : Prop := i.wellFormed = true

end Sys2Proof
end

