-- ==== Sys2Proof/Decode.lean ====
section
/-! DEFINITION. The decoder of each format of R94, total and rejecting by name, and after it the encoder, both written
from the patterns of spec/30_encoding.md and spec/opcode_table.json. -/

namespace Sys2Proof

open Machine

/-- Why a pattern selects no row. -/
inductive DecodeError where
  /-- R105: a character code that matches no CHAR row. -/
  | nonHexCharacter
  /-- R105: a pair that matches neither MARK row. -/
  | notAMarker
  /-- R104: a value written to CTRL with bit 0 clear. -/
  | noCommand
  /-- R105: stage code 0 selects no operation. -/
  | idleStage
  /-- The bytes given are not as many, or not as wide, as the format of R94 has. -/
  | wrongWidth
deriving DecidableEq, Repr

/-- The CHAR rows (R95, R96). -/
def decodeChar (c : Byte) : Except DecodeError Instr :=
  if c = 0x30#8 then .ok .hex0 else if c = 0x31#8 then .ok .hex1 else if c = 0x32#8 then .ok .hex2
  else if c = 0x33#8 then .ok .hex3 else if c = 0x34#8 then .ok .hex4 else if c = 0x35#8 then .ok .hex5
  else if c = 0x36#8 then .ok .hex6 else if c = 0x37#8 then .ok .hex7 else if c = 0x38#8 then .ok .hex8
  else if c = 0x39#8 then .ok .hex9 else if c = 0x41#8 then .ok .hexUcA else if c = 0x42#8 then .ok .hexUcB
  else if c = 0x43#8 then .ok .hexUcC else if c = 0x44#8 then .ok .hexUcD else if c = 0x45#8 then .ok .hexUcE
  else if c = 0x46#8 then .ok .hexUcF else if c = 0x61#8 then .ok .hexLcA else if c = 0x62#8 then .ok .hexLcB
  else if c = 0x63#8 then .ok .hexLcC else if c = 0x64#8 then .ok .hexLcD else if c = 0x65#8 then .ok .hexLcE
  else if c = 0x66#8 then .ok .hexLcF else .error .nonHexCharacter

/-- The letter of a marker's pair, the character of its high nibble, in the case given: bit 5 of the character is bit 13
of the pattern (R99). -/
def markLetter (marker : Byte) (lowerCase : Bool) : Byte :=
  if lowerCase then hexchar (highNibble marker) else hexchar (highNibble marker) &&& 0xDF#8

/-- The second character of a marker's pair (R99). -/
def markDigit (marker : Byte) : Byte := hexchar (lowNibble marker)

/-- The match of a marker's MARK row: its pair with the letter in upper case (R99). -/
def markPattern (marker : Byte) : BitVec 16 := markLetter marker false ++ markDigit marker

/-- The MARK rows (R99): the pattern is `first_char * 256 + second_char`, compared under the mask 0xDFFF. -/
def decodeMark (first second : Byte) : Except DecodeError Instr :=
  let p : BitVec 16 := first ++ second
  if p &&& 0xDFFF#16 = markPattern Config.sof then .ok (.sof (p.getLsbD 13))
  else if p &&& 0xDFFF#16 = markPattern Config.eofM then .ok (.eofm (p.getLsbD 13))
  else .error .notAMarker

/-- The STUFF rows (R102), exact rows before class rows (R105). No pattern is illegal. -/
def decodeStuff (esc : Bool) (n : Byte) : Instr :=
  if esc then
    if n = Config.sentinel then .escSelf else if n = Config.sentinel + 1#8 then .escChain else .escDec n
  else
    if n = Config.sentinel then .escOpen else .lit n

/-- The CMD row (R104): bit 0 of the value written to CTRL. -/
def decodeCmd (v : Word) : Except DecodeError Instr :=
  if v.getLsbD 0 then .ok (.start (v.extractLsb' 1 31)) else .error .noCommand

/-- The STG rows (R30, R105). -/
def decodeStage (code : BitVec 3) : Except DecodeError Instr :=
  if code = 1#3 then .ok .frame else if code = 2#3 then .ok .hexdec else if code = 3#3 then .ok .idext
  else if code = 4#3 then .ok .destuff else if code = 5#3 then .ok .cipher else if code = 6#3 then .ok .hexenc
  else if code = 7#3 then .ok .trim else .error .idleStage

/-- A pattern of a format as its bytes: CHAR the character; MARK the first character then the second; STUFF the byte
then the flag ESC; STUFF_END nothing; CMD the four bytes of the value, least significant first; STG the code. -/
def decode (f : Format) (bs : List Byte) : Except DecodeError Instr :=
  match f with
  | .char =>
    match bs with
    | [c] => decodeChar c
    | _ => .error .wrongWidth
  | .mark =>
    match bs with
    | [first, second] => decodeMark first second
    | _ => .error .wrongWidth
  | .stuff =>
    match bs with
    | [n, e] =>
      if e = 0#8 then .ok (decodeStuff false n)
      else if e = 1#8 then .ok (decodeStuff true n)
      else .error .wrongWidth
    | _ => .error .wrongWidth
  | .stuffEnd =>
    match bs with
    | [] => .ok .escEnd
    | _ => .error .wrongWidth
  | .cmd =>
    match bs with
    | [b0, b1, b2, b3] => decodeCmd (b3 ++ b2 ++ b1 ++ b0)
    | _ => .error .wrongWidth
  | .stg =>
    match bs with
    | [c] => if c.toNat < 8 then decodeStage (c.extractLsb' 0 3) else .error .wrongWidth
    | _ => .error .wrongWidth

/-- The format of a row (R94). -/
def Instr.format : Instr → Format
  | .hex0 | .hex1 | .hex2 | .hex3 | .hex4 | .hex5 | .hex6 | .hex7 | .hex8 | .hex9
  | .hexUcA | .hexUcB | .hexUcC | .hexUcD | .hexUcE | .hexUcF
  | .hexLcA | .hexLcB | .hexLcC | .hexLcD | .hexLcE | .hexLcF => .char
  | .sof _ | .eofm _ => .mark
  | .lit _ | .escOpen | .escSelf | .escDec _ | .escChain => .stuff
  | .escEnd => .stuffEnd
  | .start _ => .cmd
  | .frame | .hexdec | .idext | .destuff | .cipher | .hexenc | .trim => .stg

/-- The bytes of an instruction's pattern, laid out as `decode` takes them. -/
def Instr.bytes : Instr → List Byte
  | .hex0 => [0x30#8] | .hex1 => [0x31#8] | .hex2 => [0x32#8] | .hex3 => [0x33#8] | .hex4 => [0x34#8]
  | .hex5 => [0x35#8] | .hex6 => [0x36#8] | .hex7 => [0x37#8] | .hex8 => [0x38#8] | .hex9 => [0x39#8]
  | .hexUcA => [0x41#8] | .hexUcB => [0x42#8] | .hexUcC => [0x43#8]
  | .hexUcD => [0x44#8] | .hexUcE => [0x45#8] | .hexUcF => [0x46#8]
  | .hexLcA => [0x61#8] | .hexLcB => [0x62#8] | .hexLcC => [0x63#8]
  | .hexLcD => [0x64#8] | .hexLcE => [0x65#8] | .hexLcF => [0x66#8]
  | .sof lc => [markLetter Config.sof lc, markDigit Config.sof]
  | .eofm lc => [markLetter Config.eofM lc, markDigit Config.eofM]
  | .lit n => [n, 0#8]
  | .escOpen => [Config.sentinel, 0#8]
  | .escSelf => [Config.sentinel, 1#8]
  | .escDec n => [n, 1#8]
  | .escChain => [Config.sentinel + 1#8, 1#8]
  | .escEnd => []
  | .start ignored =>
      let v : Word := ignored ++ 1#1
      [v.extractLsb' 0 8, v.extractLsb' 8 8, v.extractLsb' 16 8, v.extractLsb' 24 8]
  | .frame => [1#8] | .hexdec => [2#8] | .idext => [3#8] | .destuff => [4#8]
  | .cipher => [5#8] | .hexenc => [6#8] | .trim => [7#8]

/-- The encoder: the format a row is matched in, and the bytes of its pattern. -/
def encode (i : Instr) : Format × List Byte := (i.format, i.bytes)

/-- How many bytes a pattern of the format has when it is laid out for `decode`. -/
def Format.byteCount : Format → Nat
  | .char => 1 | .mark => 2 | .stuff => 2 | .stuffEnd => 0 | .cmd => 4 | .stg => 1

/-- The format and the bytes that a table word of `nbits` bits stands for. The table gives no format with the word, so
the width and the value choose it: 0 bits or the word 0 in one byte is STUFF_END; one byte below 8 is STG, above it
CHAR; two bytes below 0x200 is STUFF, above it MARK, whose first character is bits 15:8; four bytes is CMD.
Assumption log entry 15. -/
def tableBytes (nbits w : Nat) : Option (Format × List Byte) :=
  if nbits = 0 then some (.stuffEnd, [])
  else if nbits ≤ 8 then
    if w = 0 then some (.stuffEnd, [])
    else if w < 8 then some (.stg, [BitVec.ofNat 8 w])
    else if w < 256 then some (.char, [BitVec.ofNat 8 w])
    else none
  else if nbits ≤ 16 then
    if w < 0x200 then some (.stuff, [BitVec.ofNat 8 (w % 256), BitVec.ofNat 8 (w / 256)])
    else if w < 0x10000 then some (.mark, [BitVec.ofNat 8 (w / 256), BitVec.ofNat 8 (w % 256)])
    else none
  else if nbits ≤ 32 then
    if w < 0x100000000 then
      some (.cmd, [BitVec.ofNat 8 (w % 256), BitVec.ofNat 8 (w / 0x100 % 256), BitVec.ofNat 8 (w / 0x10000 % 256),
        BitVec.ofNat 8 (w / 0x1000000)])
    else none
  else none

/-- The instruction the decoder reads from a word of spec/opcode_table.json. -/
def decodeTableWord (nbits w : Nat) : Option Instr :=
  match tableBytes nbits w with
  | some (f, bs) =>
    match decode f bs with
    | .ok i => some i
    | .error _ => none
  | none => none

end Sys2Proof
end

