-- ==== Sys2Proof/Machine/State.lean ====
section
/-! DEFINITION. The architectural state of the CORE as plain data (spec/10_state.md), its reset values (R55), and the
reasons a step can stop. -/

namespace Sys2Proof.Machine

open Sys2Proof

/-- A host-visible buffer: its cells by index, indices strictly rising. A cell that is not listed holds no value
(R56; assumption log entry 5). Each buffer is its own space indexed from 0 (R60). -/
abbrev Memory := List Host.Cell

/-- An internal stage buffer `B` (R49): `live` is `B[0..BLEN)` and its length register `BLEN` is the number of live
cells; `stale` is what earlier commands left in the cells from `BLEN` up (R266; assumption log entry 7). -/
structure Buffer where
  live : List Byte
  stale : List Byte
deriving DecidableEq, Repr

/-- The key words `K[0]` to `K[3]` (R22). -/
structure KeyWords where
  k0 : Word
  k1 : Word
  k2 : Word
  k3 : Word
deriving DecidableEq, Repr

/-- The cipher's datapath registers `V0`, `V1`, `SUM` and `RND` (R23 to R25). -/
structure Cip where
  v0 : Word
  v1 : Word
  sum : Word
  rnd : BitVec 6
deriving DecidableEq, Repr

/-- The size of a host access (R73). -/
inductive Width where
  /-- An 8-bit access. -/
  | w8
  /-- A 32-bit access. -/
  | w32
  /-- Any other size. -/
  | other
deriving DecidableEq, Repr

/-- The moves of the Host (R75); an offset counts from the base address of the CORE. -/
inductive HostMove where
  /-- `HostRead(off)`. -/
  | read (w : Width) (off : Nat)
  /-- `HostWrite(off, v)`; an 8-bit access transfers bits 7:0 of `v`. -/
  | write (w : Width) (off : Nat) (v : Word)
deriving DecidableEq, Repr

/-- What can happen to the CORE next (assumption log entry 1). -/
inductive Event where
  /-- A move of the Host (R75). -/
  | host (m : HostMove)
  /-- The reset input (R250). -/
  | reset
  /-- A turn of the Engine: one whole stage operation (R203). -/
  | engine
  /-- The model's own close look at the Engine: only the next token of the current stage (entry 18). -/
  | token
deriving DecidableEq, Repr

/-- The five error kinds (R220). They are outcomes of a command, not faults of the machine (R232). -/
inductive ErrorKind where
  /-- FrameError: "malformed envelope or insufficient length for the identifier". -/
  | frame
  /-- EncodingError: "hex text malformed". -/
  | encoding
  /-- KeyError: "key not 16 bytes". -/
  | key
  /-- BlockError: "cipher input not 8 bytes". -/
  | block
  /-- ChecksumError: "output shorter than the checksum size". -/
  | checksum
deriving DecidableEq, Repr

/-- Why the machine stops with a fault. -/
inductive Fault where
  /-- The Engine would read a cell of INBUF at or above IN_CAP (FRAME) or write a cell of OUTBUF at or above OUT_CAP
  (TRIM): the spec says no such cell exists (R66, R72). No accepted START leads there (R64). Safe: the model stops. -/
  | noSuchCell
deriving DecidableEq, Repr

/-- Why a step has no meaning. -/
inductive Refusal where
  /-- An instruction this model gives no meaning yet. Raised by no arm. Safe. -/
  | notModelled (mnemonic : String)
  /-- A START (R253, U2), or the Engine in a state no accepted START reaches, would read an input cell the host has not
  written since Reset. The spec says: refuse. Safe. -/
  | unwrittenCell
  /-- A START with `INLEN > IN_CAP` (R42, R253, U3). The spec says: refuse. Safe. -/
  | overCapacity
  /-- A host access of a size or alignment the map does not define (R73, U4). The spec says: refuse. Safe. -/
  | badAccess
deriving DecidableEq, Repr

/-- Every piece of state of R20, and the model's own fields at the end. -/
structure State where
  /-- STATUS.BUSY (R34). -/
  busy : Bool
  /-- STATUS.DONE (R34), also the output wire `done` (R51). -/
  done : Bool
  /-- STATUS.ERR (R34, R220). -/
  err : BitVec 3
  /-- INLEN (R42). -/
  inlen : Word
  /-- KEYLEN (R43). -/
  keylen : Word
  /-- OUTLEN (R44). -/
  outlen : Word
  /-- IDENT (R45). -/
  ident : DWord
  /-- INBUF (R48). -/
  inbuf : Memory
  /-- KEYBUF (R48). -/
  keybuf : Memory
  /-- OUTBUF (R48). -/
  outbuf : Memory
  /-- STAGE, the sequencer's program counter (R30). -/
  stage : BitVec 3
  /-- CUR, the cursor of the current stage (R31; entry 10). -/
  cur : Nat
  /-- ESC, the flag of the destuffer (R33). -/
  esc : Bool
  /-- TXT and TXTLEN (R49). -/
  txt : Buffer
  /-- RAW and RAWLEN (R49). -/
  raw : Buffer
  /-- STF and STFLEN (R49). -/
  stf : Buffer
  /-- PAY and PAYLEN (R49). -/
  pay : Buffer
  /-- PLN and PLNLEN (R49). -/
  pln : Buffer
  /-- HEX and HEXLEN (R49). -/
  hex : Buffer
  /-- IDR (R26). -/
  idr : DWord
  /-- K[0..3] (R22). -/
  k : KeyWords
  /-- V0, V1, SUM, RND (R23 to R25). -/
  cip : Cip
  /-- Model's own: the value of the first character of a pair while HEXDEC walks TXT (entry 9). -/
  nib : Nibble
  /-- Model's own name for the read data the CORE drives (R51): the value of the last host read (entry 8). -/
  rdata : Word
  /-- Model's own: how many unspecified read values were handed out (entry 4). -/
  free : Nat
  /-- Model's own: what happens next, in order (entry 1). -/
  agenda : List Event
  /-- Configuration, not state (R20): the parameter IN_CAP of this CORE (R10). No step changes it (entry 3). -/
  inCap : Nat
deriving DecidableEq, Repr

/-- A buffer with length 0 and no cell that holds a value. -/
def Buffer.empty : Buffer := { live := [], stale := [] }

/-- The state after Reset (R55). CUR, ESC, IDR, K, V0, V1, SUM and RND are unspecified there; zero is the model's
DESIGN CHOICE (entry 6). -/
def State.reset : State where
  busy := false
  done := false
  err := 0#3
  inlen := 0#32
  keylen := 0#32
  outlen := 0#32
  ident := 0#64
  inbuf := []
  keybuf := []
  outbuf := []
  stage := 0#3
  cur := 0
  esc := false
  txt := Buffer.empty
  raw := Buffer.empty
  stf := Buffer.empty
  pay := Buffer.empty
  pln := Buffer.empty
  hex := Buffer.empty
  idr := 0#64
  k := { k0 := 0#32, k1 := 0#32, k2 := 0#32, k3 := 0#32 }
  cip := { v0 := 0#32, v1 := 0#32, sum := 0#32, rnd := 0#6 }
  nib := 0#4
  rdata := 0#32
  free := 0
  agenda := []
  inCap := Config.defaultInCap

end Sys2Proof.Machine
end

