-- ==== Sys2Proof/Machine/Flags.lean ====
section
/-! DEFINITION. The status flags (R34, R41) and the error codes (R220). There are no arithmetic condition codes. -/

namespace Sys2Proof.Machine

open Sys2Proof

/-- The code of an error kind in STATUS.ERR (R220). -/
def errorCode : ErrorKind → BitVec 3
  | .frame => 1#3
  | .encoding => 2#3
  | .key => 3#3
  | .block => 4#3
  | .checksum => 5#3

/-- The word a read of STATUS gives (R41): BUSY at bit 0, DONE at bit 1, ERR at bits 4:2, zero above. -/
def statusWord (s : State) : Word := 0#27 ++ s.err ++ BitVec.ofBool s.done ++ BitVec.ofBool s.busy

/-- The output wire `done` (R51, R235). -/
def doneWire (s : State) : Bool := s.done

end Sys2Proof.Machine
end

