-- ==== Sys2Proof/Machine/Ops.lean ====
section
/-! DEFINITION. The named operations over memory, buffers and registers that the meanings share: cells, stage buffers,
the end of a stage, taking an error (`raise`, R230) and the return from it (an accepted START, R201, R231), and the
effect of one token. -/

namespace Sys2Proof.Machine

open Sys2Proof

/-! ## Host-visible buffers -/

/-- The value of a cell, none if it holds none (R56). -/
def Memory.read : Memory → Nat → Option Byte
  | [], _ => none
  | (a, b) :: m, i => if a = i then some b else Memory.read m i

/-- Write one cell, keeping the indices strictly rising. -/
def Memory.write : Memory → Nat → Byte → Memory
  | [], i, v => [(i, v)]
  | (a, b) :: m, i, v =>
    if i < a then (i, v) :: (a, b) :: m
    else if i = a then (i, v) :: m
    else (a, b) :: Memory.write m i v

/-- The cells `B[i..i+n)`, none if one of them holds no value. -/
def Memory.readRange (m : Memory) : Nat → Nat → Option (List Byte)
  | _, 0 => some []
  | i, n + 1 =>
    match Memory.read m i, Memory.readRange m (i + 1) n with
    | some b, some bs => some (b :: bs)
    | _, _ => none

/-- Write consecutive cells from index `i` up. -/
def Memory.writeRange : Memory → Nat → List Byte → Memory
  | m, _, [] => m
  | m, i, b :: bs => Memory.writeRange (Memory.write m i b) (i + 1) bs

/-- Every index of the memory lies at or above `i` and the indices rise strictly. -/
def Memory.risingFrom : Nat → Memory → Bool
  | _, [] => true
  | i, (a, _) :: m => decide (i ≤ a) && Memory.risingFrom (a + 1) m

/-- The canonical form: indices strictly rising. An unlisted cell holds no value, so no entry can equal it. -/
def Memory.wf (m : Memory) : Bool := Memory.risingFrom 0 m

/-- Every listed cell lies below the capacity. -/
def Memory.below (cap : Nat) (m : Memory) : Bool := m.all fun c => decide (c.1 < cap)

/-! ## Stage buffers -/

/-- The length register `BLEN` of a stage buffer (R49). -/
def Buffer.len (b : Buffer) : Nat := b.live.length

/-- `BLEN <- 0`: the cells stay as residue (R201, R266). -/
def Buffer.clear (b : Buffer) : Buffer := { live := [], stale := b.live ++ b.stale }

/-- Append cells at the length register: `emit` of spec/00_scope.md section 7, once per byte. -/
def Buffer.append (b : Buffer) (xs : List Byte) : Buffer :=
  { live := b.live ++ xs, stale := b.stale.drop xs.length }

/-- `emit(B, v)`. -/
def Buffer.emit (b : Buffer) (v : Byte) : Buffer := b.append [v]

/-- `BLEN <- 0` and then an `emit` of each byte. -/
def Buffer.load (b : Buffer) (xs : List Byte) : Buffer := b.clear.append xs

/-! ## The sequencer -/

/-- A stage operation starts at the start of its input: `CUR <- 0` (R31). -/
def State.enter (s : State) : State := { s with cur := 0 }

/-- `stage <- X` for a stage that is next: STAGE names it (R32) and CUR stands at the start of its input, so that the
pair (STAGE, CUR) names its first token (R31; assumption log entry 11). -/
def State.goto (s : State) (code : BitVec 3) : State := { s with stage := code, cur := 0 }

/-- Taking an error, `raise E` of R230: the code in ERR, the command ended, the result registers cleared, the
sequencer idle. There is no vector and no saved state. -/
def State.raise (s : State) (e : ErrorKind) : State :=
  { s with err := errorCode e, busy := false, done := true, outlen := 0#32, ident := 0#64, stage := 0#3 }

/-- An accepted START (R201), which is also the return from an error (R231). FRAME is next, so CUR is 0 (R31; entry 11). -/
def State.accept (s : State) : State :=
  { s with
    busy := true, done := false, err := 0#3, outlen := 0#32, ident := 0#64,
    txt := s.txt.clear, raw := s.raw.clear, stf := s.stf.clear,
    pay := s.pay.clear, pln := s.pln.clear, hex := s.hex.clear,
    stage := 1#3, cur := 0 }

/-- Reset (R250): every piece of the CORE's state at its reset value. The agenda, the read data and the count of free
values are the model's own and stay, and so does the parameter IN_CAP (assumption log entries 1, 3, 4, 8). -/
def State.toReset (s : State) : State :=
  { State.reset with rdata := s.rdata, free := s.free, agenda := s.agenda, inCap := s.inCap }

/-- The packet of R253: `INBUF[0..INLEN)`, none if a cell holds no value. -/
def State.packet (s : State) : Option (List Byte) := s.inbuf.readRange 0 s.inlen.toNat

/-- The key of R253: `KEYBUF[0..16)`, none if a cell holds no value. -/
def State.key (s : State) : Option (List Byte) := s.keybuf.readRange 0 Config.keyLen

/-! ## The effect of one token, at the cursor -/

/-- A hex digit of TXT with the value `d`: the first of a pair is held, the second completes the byte that is appended
to RAW (R67, R125). -/
def State.takeNibble (s : State) (d : Nibble) : State :=
  if s.cur % 2 = 0 then { s with nib := d, cur := s.cur + 1 }
  else { s with raw := s.raw.emit (pairByte s.nib d), cur := s.cur + 1 }

/-- LIT (R153). -/
def State.takeLit (s : State) (n : Byte) : State :=
  { s with pay := s.pay.emit n, esc := false, cur := s.cur + 1 }

/-- ESC_OPEN (R154). -/
def State.takeOpen (s : State) : State := { s with esc := true, cur := s.cur + 1 }

/-- ESC_SELF (R155). -/
def State.takeSelf (s : State) : State :=
  { s with pay := s.pay.emit Config.sentinel, esc := false, cur := s.cur + 1 }

/-- ESC_DEC (R156): the byte decremented, modulo 256. -/
def State.takeDec (s : State) (n : Byte) : State :=
  { s with pay := s.pay.emit (n - 1#8), esc := false, cur := s.cur + 1 }

/-- ESC_CHAIN (R157). -/
def State.takeChain (s : State) : State := { s with esc := true, cur := s.cur + 1 }

/-- ESC_END (R158): the open escape is dropped. -/
def State.takeEnd (s : State) : State := { s with esc := false }

/-- A marker pair at its position: the cursor passes it. Elsewhere, or in a text too short for two markers, it is a
frame error (R105, R121). -/
def State.takeMarker (s : State) (position : Nat) : State :=
  if Config.minLen ≤ s.inlen.toNat ∧ s.cur = position then { s with cur := s.cur + 2 } else s.raise .frame

end Sys2Proof.Machine
end

