-- ==== Sys2Proof/Machine/Chars.lean ====
section
/-! DEFINITION. The CHAR rows: each hex digit character is a nibble of HEXDEC's pass over TXT (R67, R96, R125). -/

namespace Sys2Proof.Machine

open Sys2Proof

/-- The character `0`: hexval 0 (R96). -/
def execHex0 (s : State) : Host.Outcome State Fault Refusal := .next (s.takeNibble 0#4)

/-- The character `1`: hexval 1 (R96). -/
def execHex1 (s : State) : Host.Outcome State Fault Refusal := .next (s.takeNibble 1#4)

/-- The character `2`: hexval 2 (R96). -/
def execHex2 (s : State) : Host.Outcome State Fault Refusal := .next (s.takeNibble 2#4)

/-- The character `3`: hexval 3 (R96). -/
def execHex3 (s : State) : Host.Outcome State Fault Refusal := .next (s.takeNibble 3#4)

/-- The character `4`: hexval 4 (R96). -/
def execHex4 (s : State) : Host.Outcome State Fault Refusal := .next (s.takeNibble 4#4)

/-- The character `5`: hexval 5 (R96). -/
def execHex5 (s : State) : Host.Outcome State Fault Refusal := .next (s.takeNibble 5#4)

/-- The character `6`: hexval 6 (R96). -/
def execHex6 (s : State) : Host.Outcome State Fault Refusal := .next (s.takeNibble 6#4)

/-- The character `7`: hexval 7 (R96). -/
def execHex7 (s : State) : Host.Outcome State Fault Refusal := .next (s.takeNibble 7#4)

/-- The character `8`: hexval 8 (R96). -/
def execHex8 (s : State) : Host.Outcome State Fault Refusal := .next (s.takeNibble 8#4)

/-- The character `9`: hexval 9 (R96). -/
def execHex9 (s : State) : Host.Outcome State Fault Refusal := .next (s.takeNibble 9#4)

/-- The character `A`: hexval 10 (R96). -/
def execHexUcA (s : State) : Host.Outcome State Fault Refusal := .next (s.takeNibble 10#4)

/-- The character `B`: hexval 11 (R96). -/
def execHexUcB (s : State) : Host.Outcome State Fault Refusal := .next (s.takeNibble 11#4)

/-- The character `C`: hexval 12 (R96). -/
def execHexUcC (s : State) : Host.Outcome State Fault Refusal := .next (s.takeNibble 12#4)

/-- The character `D`: hexval 13 (R96). -/
def execHexUcD (s : State) : Host.Outcome State Fault Refusal := .next (s.takeNibble 13#4)

/-- The character `E`: hexval 14 (R96). -/
def execHexUcE (s : State) : Host.Outcome State Fault Refusal := .next (s.takeNibble 14#4)

/-- The character `F`: hexval 15 (R96). -/
def execHexUcF (s : State) : Host.Outcome State Fault Refusal := .next (s.takeNibble 15#4)

/-- The character `a`: hexval 10 (R96). -/
def execHexLcA (s : State) : Host.Outcome State Fault Refusal := .next (s.takeNibble 10#4)

/-- The character `b`: hexval 11 (R96). -/
def execHexLcB (s : State) : Host.Outcome State Fault Refusal := .next (s.takeNibble 11#4)

/-- The character `c`: hexval 12 (R96). -/
def execHexLcC (s : State) : Host.Outcome State Fault Refusal := .next (s.takeNibble 12#4)

/-- The character `d`: hexval 13 (R96). -/
def execHexLcD (s : State) : Host.Outcome State Fault Refusal := .next (s.takeNibble 13#4)

/-- The character `e`: hexval 14 (R96). -/
def execHexLcE (s : State) : Host.Outcome State Fault Refusal := .next (s.takeNibble 14#4)

/-- The character `f`: hexval 15 (R96). -/
def execHexLcF (s : State) : Host.Outcome State Fault Refusal := .next (s.takeNibble 15#4)

end Sys2Proof.Machine
end

