-- ==== Sys2Proof/Machine/Command.lean ====
section
/-! DEFINITION. The CMD row: START (R201, R202, R253). -/

namespace Sys2Proof.Machine

open Sys2Proof

/-- START. While busy it is ignored (R202). Outside the launch premise it is refused (R253, U2, U3): more characters
than INBUF has, an unwritten packet cell, or with `KEYLEN = 16` an unwritten key cell. Else it is accepted (R201). -/
def execStart (_ignored : BitVec 31) (s : State) : Host.Outcome State Fault Refusal :=
  if s.busy then .next s
  else if s.inCap < s.inlen.toNat then .refused .overCapacity
  else if s.packet.isNone then .refused .unwrittenCell
  else if s.keylen.toNat = Config.keyLen ∧ s.key.isNone then .refused .unwrittenCell
  else .next s.accept

end Sys2Proof.Machine
end

