-- ==== Sys2Proof/Machine/Markers.lean ====
section
/-! DEFINITION. The MARK rows: FRAME's check of a marker pair (R99, R120, R121). -/

namespace Sys2Proof.Machine

open Sys2Proof

/-- SOF: the start marker belongs at `INBUF[0..2)`; the case of its letter is free (R99, R122). -/
def execSof (_lowerCase : Bool) (s : State) : Host.Outcome State Fault Refusal := .next (s.takeMarker 0)

/-- EOFM: the end marker belongs at `INBUF[INLEN-2..INLEN)`; the case of its letter is free (R99, R122). -/
def execEofm (_lowerCase : Bool) (s : State) : Host.Outcome State Fault Refusal :=
  .next (s.takeMarker (s.inlen.toNat - 2))

end Sys2Proof.Machine
end

