-- ==== Sys2Proof/Machine/Xtea.lean ====
section
/-! DEFINITION. The cipher's datapath (R175 to R185): the key split, the block load and store, one round and the block
routine. -/

namespace Sys2Proof.Machine

open Sys2Proof

/-- R175: the four little-endian words of the key bytes. -/
def keySplit (key : List Byte) : KeyWords where
  k0 := BitVec.ofNat 32 (memRead key 0 4)
  k1 := BitVec.ofNat 32 (memRead key 4 4)
  k2 := BitVec.ofNat 32 (memRead key 8 4)
  k3 := BitVec.ofNat 32 (memRead key 12 4)

/-- `K[i]` for an index of two bits (R22). -/
def keyWord (k : KeyWords) (i : BitVec 2) : Word :=
  if i = 0#2 then k.k0 else if i = 1#2 then k.k1 else if i = 2#2 then k.k2 else k.k3

/-- `((v <<32 4) xor (v >>32 5)) +32 v` of R177. -/
def mix (v : Word) : Word := ((v <<< 4) ^^^ (v >>> 5)) + v

/-- The key index of assignment (a) of R177: bits 12:11 of SUM. -/
def keyIndexA (sum : Word) : BitVec 2 := (sum >>> 11).extractLsb' 0 2

/-- The key index of assignment (c) of R177: bits 1:0 of SUM. -/
def keyIndexC (sum : Word) : BitVec 2 := sum.extractLsb' 0 2

/-- The term assignment (a) of R177 subtracts from V1. -/
def termA (k : KeyWords) (v0 sum : Word) : Word := mix v0 ^^^ (sum + keyWord k (keyIndexA sum))

/-- The term assignment (c) of R177 subtracts from V0. -/
def termC (k : KeyWords) (v1 sum : Word) : Word := mix v1 ^^^ (sum + keyWord k (keyIndexC sum))

/-- One round (R177): (a) with SUM before the decrement, (b), then (c) with SUM after it and the new V1. -/
def xteaRound (k : KeyWords) (c : Cip) : Cip :=
  let v1 := c.v1 - termA k c.v0 c.sum
  let sum := c.sum - Config.delta
  let v0 := c.v0 - termC k v1 sum
  { v0 := v0, v1 := v1, sum := sum, rnd := c.rnd - 1#6 }

/-- R178: `n` rounds. -/
def xteaRounds (k : KeyWords) : Nat → Cip → Cip
  | 0, c => c
  | n + 1, c => xteaRounds k n (xteaRound k c)

/-- R176, R179: the datapath loaded with a chunk. -/
def blockLoad (chunk : List Byte) : Cip where
  v0 := BitVec.ofNat 32 (memRead chunk 0 4)
  v1 := BitVec.ofNat 32 (memRead chunk 4 4)
  sum := Config.sum0
  rnd := BitVec.ofNat 6 Config.rounds

/-- R180: V0 then V1, each little-endian. -/
def blockStore (c : Cip) : List Byte := leBytes 4 c.v0.toNat ++ leBytes 4 c.v1.toNat

/-- The datapath after the block routine has run on a chunk. -/
def blockRun (k : KeyWords) (chunk : List Byte) : Cip := xteaRounds k Config.rounds (blockLoad chunk)

/-- `xtea_dec(key, block)` of R185. -/
def xteaDec (key block : List Byte) : List Byte := blockStore (blockRun (keySplit key) block)

end Sys2Proof.Machine
end

