-- ==== Sys2Proof/Machine/Stages.lean ====
section
/-! DEFINITION. The STG rows: the seven stage operations, each one atomic transition of the Engine (R203). What a stage
wrote before a `raise` stays written, as the pseudocode has it (R230). Each sets CUR to 0 at its start, and a stage that
completes leaves it at 0 for the next (R31). -/

namespace Sys2Proof.Machine

open Sys2Proof

/-! ## FRAME -/

/-- FRAME with both markers accepted: the interior goes to TXT (R120). -/
def State.framed (s : State) (interior : List Byte) : State :=
  ({ s with txt := s.txt.load interior } : State).goto 2#3

/-- FRAME (R120 to R122): the length, the start marker, the end marker, then the interior. A cell that holds no value
or does not exist is met only outside the launch premise (assumption log entries 5 and 13). -/
def execFrame (s : State) : Host.Outcome State Fault Refusal :=
  let l := s.inlen.toNat
  if l < Config.minLen then .next (s.enter.raise .frame)
  else if s.inCap < l then .fault .noSuchCell
  else
    match s.inbuf.readRange 0 2 with
    | some [a, b] =>
      if isSof a b then
        match s.inbuf.readRange (l - 2) 2 with
        | some [c, d] =>
          if isEofm c d then
            match s.inbuf.readRange 2 (l - 4) with
            | some interior => .next (s.framed interior)
            | none => .refused .unwrittenCell
          else .next (s.enter.raise .frame)
        | _ => .refused .unwrittenCell
      else .next (s.enter.raise .frame)
    | _ => .refused .unwrittenCell

/-! ## HEXDEC -/

/-- HEXDEC (R125 to R127): the whole text is checked, then its nibbles are taken in order. -/
def execHexdec (s : State) : Host.Outcome State Fault Refusal :=
  if s.txt.len % 2 = 1 then .next (s.enter.raise .encoding)
  else
    match hexvals s.txt.live with
    | some digits => .next ((digits.foldl State.takeNibble { s with raw := s.raw.clear, cur := 0 }).goto 3#3)
    | none => .next (s.enter.raise .encoding)

/-! ## IDEXT -/

/-- IDEXT (R140 to R143): eight little-endian identifier bytes, the rest is the stuffed payload. -/
def execIdext (s : State) : Host.Outcome State Fault Refusal :=
  if s.raw.len < Config.idLen then .next (s.enter.raise .frame)
  else
    .next (({ s with
      idr := BitVec.ofNat 64 (memRead s.raw.live 0 Config.idLen)
      stf := s.stf.load (s.raw.live.drop Config.idLen) } : State).goto 4#3)

/-! ## DESTUFF -/

/-- One pass of the loop of R150: the token the byte and ESC select (R153 to R157). -/
def destuffByte (s : State) (n : Byte) : State :=
  if s.esc then
    if n = Config.sentinel then s.takeSelf
    else if n - 1#8 = Config.sentinel then s.takeChain
    else s.takeDec n
  else
    if n = Config.sentinel then s.takeOpen else s.takeLit n

/-- The state after the loop of R150, before the open escape is dropped. -/
def destuffLoop (s : State) : State :=
  s.stf.live.foldl destuffByte { s with pay := s.pay.clear, esc := false, cur := 0 }

/-- DESTUFF (R150): PAYLEN and ESC cleared, every byte of STF in order, an open escape dropped at the end (R158). -/
def execDestuff (s : State) : Host.Outcome State Fault Refusal :=
  let t := destuffLoop s
  .next ((if t.esc then t.takeEnd else t).goto 5#3)

/-! ## CIPHER -/

/-- One full chunk of R170: the key words, the block routine, the eight bytes appended to PLN (R175 to R180). -/
def State.decryptChunk (s : State) (key chunk : List Byte) : State :=
  { s with
    k := keySplit key
    cip := blockRun (keySplit key) chunk
    pln := s.pln.append (blockStore (blockRun (keySplit key) chunk))
    cur := s.cur + Config.blkLen }

/-- The loop of R170 over the chunks: at each entry the key length first, then the chunk length (R172). -/
def cipherLoop : List (List Byte) → State → Host.Outcome State Fault Refusal
  | [], s => .next (s.goto 6#3)
  | chunk :: rest, s =>
    if s.keylen.toNat ≠ Config.keyLen then .next (s.raise .key)
    else if chunk.length ≠ Config.blkLen then .next (s.raise .block)
    else
      match s.key with
      | some key => cipherLoop rest (s.decryptChunk key chunk)
      | none => .refused .unwrittenCell

/-- CIPHER (R170): PLNLEN and CUR cleared, then the chunks of PAY in order (R171). -/
def execCipher (s : State) : Host.Outcome State Fault Refusal :=
  cipherLoop (chunks s.pay.live) { s with pln := s.pln.clear, cur := 0 }

/-! ## HEXENC -/

/-- HEXENC (R130): PLN as lowercase hex text; it cannot fail. -/
def execHexenc (s : State) : Host.Outcome State Fault Refusal :=
  .next (({ s with hex := s.hex.load (hexenc s.pln.live) } : State).goto 7#3)

/-! ## TRIM -/

/-- The successful TRIM of R200: the result committed and the command ended. -/
def State.trimmed (s : State) : State :=
  { s with
    outbuf := s.outbuf.writeRange 0 (s.hex.live.take (s.hex.len - Config.ckChars))
    outlen := BitVec.ofNat 32 (s.hex.len - Config.ckChars)
    ident := s.idr
    err := 0#3
    busy := false
    done := true
    cur := s.hex.len - Config.ckChars
    stage := 0#3 }

/-- TRIM (R200, R213, R214): the last four characters are dropped unread. A result longer than OUTBUF is met only
outside the launch premise (R64; assumption log entry 13). -/
def execTrim (s : State) : Host.Outcome State Fault Refusal :=
  if s.hex.len < Config.ckChars then .next (s.enter.raise .checksum)
  else if Config.outCap s.inCap < s.hex.len - Config.ckChars then .fault .noSuchCell
  else .next s.trimmed

end Sys2Proof.Machine
end

