-- ==== Sys2Proof/Machine/Stuff.lean ====
section
/-! DEFINITION. The STUFF and STUFF_END rows: one token of the stuffed payload (R102, R153 to R158). -/

namespace Sys2Proof.Machine

open Sys2Proof

/-- LIT: the byte is appended to PAY unchanged; ESC is 0 after (R153). -/
def execLit (n : Byte) (s : State) : Host.Outcome State Fault Refusal := .next (s.takeLit n)

/-- ESC_OPEN: nothing is emitted; ESC is 1 after (R154). -/
def execEscOpen (s : State) : Host.Outcome State Fault Refusal := .next s.takeOpen

/-- ESC_SELF: one sentinel is emitted; ESC is 0 after (R155). -/
def execEscSelf (s : State) : Host.Outcome State Fault Refusal := .next s.takeSelf

/-- ESC_DEC: the byte is emitted decremented modulo 256; ESC is 0 after (R156). -/
def execEscDec (n : Byte) (s : State) : Host.Outcome State Fault Refusal := .next (s.takeDec n)

/-- ESC_CHAIN: nothing is emitted; ESC stays 1 (R157). -/
def execEscChain (s : State) : Host.Outcome State Fault Refusal := .next s.takeChain

/-- ESC_END: nothing is emitted; ESC is 0 after (R158). -/
def execEscEnd (s : State) : Host.Outcome State Fault Refusal := .next s.takeEnd

end Sys2Proof.Machine
end

