-- ==== Sys2Proof/Machine/Dispatch.lean ====
section
/-! DEFINITION. The dispatch: one arm per row of the opcode table. -/

namespace Sys2Proof.Machine

def exec (i : Instr) (s : State) : Host.Outcome State Fault Refusal :=
  match i with
  | .hex0 => Sys2Proof.Machine.execHex0 s
  | .hex1 => Sys2Proof.Machine.execHex1 s
  | .hex2 => Sys2Proof.Machine.execHex2 s
  | .hex3 => Sys2Proof.Machine.execHex3 s
  | .hex4 => Sys2Proof.Machine.execHex4 s
  | .hex5 => Sys2Proof.Machine.execHex5 s
  | .hex6 => Sys2Proof.Machine.execHex6 s
  | .hex7 => Sys2Proof.Machine.execHex7 s
  | .hex8 => Sys2Proof.Machine.execHex8 s
  | .hex9 => Sys2Proof.Machine.execHex9 s
  | .hexUcA => Sys2Proof.Machine.execHexUcA s
  | .hexUcB => Sys2Proof.Machine.execHexUcB s
  | .hexUcC => Sys2Proof.Machine.execHexUcC s
  | .hexUcD => Sys2Proof.Machine.execHexUcD s
  | .hexUcE => Sys2Proof.Machine.execHexUcE s
  | .hexUcF => Sys2Proof.Machine.execHexUcF s
  | .hexLcA => Sys2Proof.Machine.execHexLcA s
  | .hexLcB => Sys2Proof.Machine.execHexLcB s
  | .hexLcC => Sys2Proof.Machine.execHexLcC s
  | .hexLcD => Sys2Proof.Machine.execHexLcD s
  | .hexLcE => Sys2Proof.Machine.execHexLcE s
  | .hexLcF => Sys2Proof.Machine.execHexLcF s
  | .sof lowerCase => Sys2Proof.Machine.execSof lowerCase s
  | .eofm lowerCase => Sys2Proof.Machine.execEofm lowerCase s
  | .lit n => Sys2Proof.Machine.execLit n s
  | .escOpen => Sys2Proof.Machine.execEscOpen s
  | .escSelf => Sys2Proof.Machine.execEscSelf s
  | .escDec n => Sys2Proof.Machine.execEscDec n s
  | .escChain => Sys2Proof.Machine.execEscChain s
  | .escEnd => Sys2Proof.Machine.execEscEnd s
  | .start ignored => Sys2Proof.Machine.execStart ignored s
  | .frame => Sys2Proof.Machine.execFrame s
  | .hexdec => Sys2Proof.Machine.execHexdec s
  | .idext => Sys2Proof.Machine.execIdext s
  | .destuff => Sys2Proof.Machine.execDestuff s
  | .cipher => Sys2Proof.Machine.execCipher s
  | .hexenc => Sys2Proof.Machine.execHexenc s
  | .trim => Sys2Proof.Machine.execTrim s

end Sys2Proof.Machine
end

