-- ==== Sys2Proof/Machine/HostPort.lean ====
section
/-! DEFINITION. The host interface: the address map (R72), the access sizes (R73), and the moves HostRead and HostWrite
(R75, R47). -/

namespace Sys2Proof.Machine

open Sys2Proof

/-- What an offset of the map of R72 names. -/
inductive Place where
  | ctrl
  | status
  | inlen
  | keylen
  | outlen
  | identLo
  | identHi
  | keybuf (i : Nat)
  | inbuf (i : Nat)
  | outbuf (i : Nat)
  | reserved
deriving DecidableEq, Repr

/-- The map of R72 for a given `IN_CAP`. An offset inside a 32-bit register names that register. -/
def place (inCap off : Nat) : Place :=
  if off < 0x04 then .ctrl
  else if off < 0x08 then .status
  else if off < 0x0C then .inlen
  else if off < 0x10 then .keylen
  else if off < 0x14 then .outlen
  else if off < 0x18 then .reserved
  else if off < 0x1C then .identLo
  else if off < 0x20 then .identHi
  else if off < 0x30 then .keybuf (off - 0x20)
  else if off < 0x1000 then .reserved
  else if off - 0x1000 < inCap then .inbuf (off - 0x1000)
  else if off < Config.outBase inCap then .reserved
  else if off - Config.outBase inCap < Config.outCap inCap then .outbuf (off - Config.outBase inCap)
  else .reserved

/-- R73, R46: registers take naturally aligned 32-bit accesses, buffer cells 8-bit accesses, reserved offsets both
(assumption log entry 12). -/
def accessOk (inCap : Nat) (w : Width) (off : Nat) : Bool :=
  match w, place inCap off with
  | .other, _ => false
  | .w8, .keybuf _ | .w8, .inbuf _ | .w8, .outbuf _ | .w8, .reserved => true
  | .w8, _ => false
  | .w32, .keybuf _ | .w32, .inbuf _ | .w32, .outbuf _ => false
  | .w32, _ => off % 4 == 0

/-- The value a host read of a place gives (R47, R63), none where the spec leaves it unspecified (U5, U6). -/
def readPlace (s : State) : Place → Option Word
  | .ctrl => some 0#32
  | .status => some (statusWord s)
  | .inlen => some s.inlen
  | .keylen => some s.keylen
  | .outlen => some s.outlen
  | .identLo => some (s.ident.extractLsb' 0 32)
  | .identHi => some (s.ident.extractLsb' 32 32)
  | .keybuf i => (s.keybuf.read i).map (BitVec.zeroExtend 32)
  | .inbuf i => (s.inbuf.read i).map (BitVec.zeroExtend 32)
  | .outbuf i => if s.done && decide (i < s.outlen.toNat) then (s.outbuf.read i).map (BitVec.zeroExtend 32) else none
  | .reserved => some 0#32

/-- `HostRead(off)` (R75): the value goes to the read data; no piece of the CORE's state changes (R71). An unspecified
value is a free value (assumption log entry 4). -/
def hostRead (w : Width) (off : Nat) (s : State) : Host.Outcome State Fault Refusal :=
  if accessOk s.inCap w off then
    match readPlace s (place s.inCap off) with
    | some v => .next { s with rdata := v }
    | none => .next { s with rdata := (Config.freeByte s.free).zeroExtend 32, free := s.free + 1 }
  else .refused .badAccess

/-- What a write to a place other than CTRL changes while `BUSY = 0` (R47). -/
def writePlace (s : State) (v : Word) : Place → State
  | .inlen => { s with inlen := v }
  | .keylen => { s with keylen := v }
  | .keybuf i => { s with keybuf := s.keybuf.write i (v.extractLsb' 0 8) }
  | .inbuf i => { s with inbuf := s.inbuf.write i (v.extractLsb' 0 8) }
  | .ctrl | .status | .outlen | .identLo | .identHi | .outbuf _ | .reserved => s

/-- `HostWrite(off, v)` (R75): a command written to CTRL is executed (R40, R104); any other write is ignored while
`BUSY = 1` and else takes effect where the place is writable (R47). -/
def hostWrite (w : Width) (off : Nat) (v : Word) (s : State) : Host.Outcome State Fault Refusal :=
  if accessOk s.inCap w off then
    if place s.inCap off = .ctrl then
      match decodeCmd v with
      | .ok i => exec i s
      | .error _ => .next s
    else if s.busy then .next s
    else .next (writePlace s v (place s.inCap off))
  else .refused .badAccess

end Sys2Proof.Machine
end

