-- ==== Sys2Proof/Machine/Fetch.lean ====
section
/-! DEFINITION. Where the Engine fetches: the stage operation from STAGE (R30, R203), and for the model's close look
the token at the pair (STAGE, CUR) (R31). Also the storing of a table word at those places. -/

namespace Sys2Proof.Machine

open Sys2Proof

/-- The Engine's turn (R8, R203): while BUSY it executes the stage operation STAGE names; without one it has no step
and nothing changes (assumption log entry 2). -/
def engineStep (s : State) : Host.Outcome State Fault Refusal :=
  if s.busy then
    match decodeStage s.stage with
    | .ok i => exec i s
    | .error _ => .next s
  else .next s

/-- The token at (STAGE, CUR) (R31): in FRAME a marker pair at one of the two marker positions, in HEXDEC the character
of TXT, in DESTUFF the byte of STF under ESC or the end of STF with ESC = 1. None where the stage has no token there or
the pattern selects no row. -/
def fetchToken (s : State) : Option Instr :=
  if s.stage = 1#3 then
    if Config.minLen ≤ s.inlen.toNat ∧ (s.cur = 0 ∨ s.cur + 2 = s.inlen.toNat) then
      match s.inbuf.readRange s.cur 2 with
      | some [a, b] => (decodeMark a b).toOption
      | _ => none
    else none
  else if s.stage = 2#3 then
    match s.txt.live[s.cur]? with
    | some c => (decodeChar c).toOption
    | none => none
  else if s.stage = 4#3 then
    match s.stf.live[s.cur]? with
    | some n => some (decodeStuff s.esc n)
    | none => if s.cur = s.stf.len ∧ s.esc then some .escEnd else none
  else none

/-- The close look (assumption log entry 18): while BUSY, the token at the cursor alone; where there is none, the whole
stage operation. -/
def tokenStep (s : State) : Host.Outcome State Fault Refusal :=
  if s.busy then
    match fetchToken s with
    | some i => exec i s
    | none => engineStep s
  else .next s

/-- The Engine is in the stage with the given code, at the start of its input. -/
def State.inStage (s : State) (code : BitVec 3) : State := { s with busy := true, stage := code, cur := 0 }

/-- The state with one pattern of a format stored where it is fetched, and the turn that fetches it put first. -/
def State.withPattern (s : State) : Format × List Byte → State
  | (.char, bs) => { s.inStage 2#3 with txt := s.txt.load bs, agenda := .token :: s.agenda }
  | (.mark, bs) =>
    let isMark : Bool := match decode .mark bs with
      | .ok (.eofm _) => true
      | _ => false
    let pos : Nat := if isMark then 2 else 0
    { s.inStage 1#3 with
      inlen := BitVec.ofNat 32 Config.minLen, cur := pos, inbuf := s.inbuf.writeRange pos bs, agenda := .token :: s.agenda }
  | (.stuff, bs) =>
    { s.inStage 4#3 with
      stf := s.stf.load (bs.take 1), esc := decide ((bs.drop 1).head? = some 1#8), agenda := .token :: s.agenda }
  | (.stuffEnd, _) => { s.inStage 4#3 with stf := s.stf.clear, esc := true, agenda := .token :: s.agenda }
  | (.cmd, bs) => { s with agenda := .host (.write .w32 0 (BitVec.ofNat 32 (leNat bs))) :: s.agenda }
  | (.stg, bs) =>
    { s with busy := true, stage := BitVec.ofNat 3 (leNat bs), agenda := .engine :: s.agenda }

end Sys2Proof.Machine
end

