-- ==== Sys2Proof/Machine/Step.lean ====
section
/-! DEFINITION. One step of the machine: the next event of the agenda, or the Engine's turn when none is due. -/

namespace Sys2Proof.Machine

open Sys2Proof

/-- One step (R8, R75, R203, R250). Host moves, Reset and Engine steps interleave in the order of the agenda; with no
event due the Engine takes its step (assumption log entries 1 and 2). -/
def step (s : State) : Host.Outcome State Fault Refusal :=
  match s.agenda with
  | [] => engineStep s
  | .engine :: rest => engineStep { s with agenda := rest }
  | .token :: rest => tokenStep { s with agenda := rest }
  | .reset :: rest => .next ({ s with agenda := rest } : State).toReset
  | .host (.read w off) :: rest => hostRead w off { s with agenda := rest }
  | .host (.write w off v) :: rest => hostWrite w off v { s with agenda := rest }

/-- `s` with a word of the opcode table stored where `step` fetches its next instruction (assumption log entries 15
and 16). -/
def State.withFetchWord (s : State) (nbits w : Nat) : State :=
  match tableBytes nbits w with
  | some p => s.withPattern p
  | none => s

end Sys2Proof.Machine
end

