-- ==== Sys2Proof/Machine/Reference.lean ====
section
/-! DEFINITION. Functions the spec gives beside the machine, written from its own words so that claims can compare the
machine with them: `decode` (R210), the destuffer's in-place form (R151), and the encrypt routine, which is test
material and no part of the hardware (spec/95_test_vectors.md section 4, R186). -/

namespace Sys2Proof.Machine

open Sys2Proof

/-- DecodedFrame: the result of `decode` (R210). -/
structure DecodedFrame where
  identifier : DWord
  payload : List Byte
deriving DecidableEq, Repr

/-- Stage 1 of R210: the packet holds both markers. -/
def hasMarkers (pkt : List Byte) : Bool :=
  match pkt.take 2, pkt.drop (pkt.length - 2) with
  | [a, b], [c, d] => decide (Config.minLen ≤ pkt.length) && isSof a b && isEofm c d
  | _, _ => false

/-- The interior of the packet, `pkt[2 .. L-2)`. -/
def packetInterior (pkt : List Byte) : List Byte := (pkt.drop 2).take (pkt.length - 4)

/-- Stage 5 of R210 on the chunks of the payload. -/
def decryptAll (key pay : List Byte) : List Byte := (chunks pay).flatMap (xteaDec key)

/-- Stages 5 to 7 of R210: the cipher's two checks, made only if there is a chunk, then encode and trim. -/
def decodePayload (key pay : List Byte) : Except ErrorKind (List Byte) :=
  if pay ≠ [] ∧ key.length ≠ Config.keyLen then .error .key
  else if pay.length % Config.blkLen ≠ 0 then .error .block
  else
    let hex := hexenc (decryptAll key pay)
    if hex.length < Config.ckChars then .error .checksum
    else .ok (hex.take (hex.length - Config.ckChars))

/-- `decode(pkt, key)` of R210. -/
def decodePacket (pkt key : List Byte) : Except ErrorKind DecodedFrame :=
  if hasMarkers pkt then
    match hexdec (packetInterior pkt) with
    | none => .error .encoding
    | some raw =>
      if raw.length < Config.idLen then .error .frame
      else
        match decodePayload key (ds false (raw.drop Config.idLen)) with
        | .error e => .error e
        | .ok payload => .ok { identifier := BitVec.ofNat 64 (memRead raw 0 Config.idLen), payload := payload }
  else .error .frame

/-- The loop of `destuff_inplace` (R151) over the working copy `w` with cursor `i` and output so far; the cursor rises
at every pass, so as many passes as there are bytes are enough. -/
def destuffInplaceLoop : Nat → List Byte → Nat → List Byte → List Byte
  | 0, _, _, out => out
  | fuel + 1, w, i, out =>
    match w[i]? with
    | none => out
    | some b =>
      if b = Config.sentinel then
        match w[i + 1]? with
        | none => destuffInplaceLoop fuel w (i + 1) out
        | some n =>
          if n = Config.sentinel then destuffInplaceLoop fuel w (i + 2) (out ++ [Config.sentinel])
          else destuffInplaceLoop fuel (w.set (i + 1) (n - 1#8)) (i + 1) out
      else destuffInplaceLoop fuel w (i + 1) (out ++ [b])

/-- `destuff_inplace(W, len)` of R151 on a private copy of the bytes. -/
def destuffInplace (w : List Byte) : List Byte := destuffInplaceLoop w.length w 0 []

/-- One encrypt round: R177 undone in reverse order, with additions (R186). Test material. -/
def xteaEncRound (k : KeyWords) (c : Cip) : Cip :=
  let v0 := c.v0 + termC k c.v1 c.sum
  let sum := c.sum + Config.delta
  let v1 := c.v1 + termA k v0 sum
  { v0 := v0, v1 := v1, sum := sum, rnd := c.rnd + 1#6 }

/-- `n` encrypt rounds. Test material. -/
def xteaEncRounds (k : KeyWords) : Nat → Cip → Cip
  | 0, c => c
  | n + 1, c => xteaEncRounds k n (xteaEncRound k c)

/-- `xtea_enc(key, block)` of spec/95_test_vectors.md section 4. Test material. -/
def xteaEnc (key block : List Byte) : List Byte :=
  blockStore (xteaEncRounds (keySplit key) Config.rounds
    { v0 := BitVec.ofNat 32 (memRead block 0 4), v1 := BitVec.ofNat 32 (memRead block 4 4), sum := 0#32, rnd := 0#6 })

end Sys2Proof.Machine
end

