-- ==== Sys2Proof/Safety.lean ====
section
/-! DEFINITION. The terms the claims are stated in: the launch premise (R253), the invariants of the flags (R35), of the
memories, of the lengths (R64) and of the inputs of a running command, and a command's run. -/

namespace Sys2Proof.Machine

open Sys2Proof

/-- The launch premise of R253. -/
def LaunchPremise (s : State) : Prop :=
  s.busy = false ∧ s.inlen.toNat ≤ s.inCap ∧ s.packet.isSome = true ∧
    (s.keylen.toNat = Config.keyLen → s.key.isSome = true)

/-- The state holds the packet and the key as its command's arguments (R210): the packet in `INBUF[0..INLEN)`, the
key's byte count in KEYLEN and, if that is 16, its bytes in KEYBUF. -/
def HoldsInputs (s : State) (pkt key : List Byte) : Prop :=
  s.inlen.toNat = pkt.length ∧ s.packet = some pkt ∧ s.keylen.toNat = key.length ∧
    (key.length = Config.keyLen → s.key = some key)

/-- The flags of R35, with the codes R41 says never occur and the result registers R44 and R45 keep at 0 while a
command runs. -/
structure FlagsOk (s : State) : Prop where
  busy_clear : s.busy = true → s.done = false ∧ s.err = 0#3
  err_done : s.err ≠ 0#3 → s.done = true
  busy_iff : s.busy = true ↔ s.stage ≠ 0#3
  failed_result : s.done = true ∧ s.err ≠ 0#3 → s.outlen = 0#32 ∧ s.ident = 0#64
  busy_result : s.busy = true → s.outlen = 0#32 ∧ s.ident = 0#64
  err_legal : s.err.toNat ≤ 5

/-- The three host-visible buffers keep their canonical form and hold no cell that does not exist (R48, R60). -/
structure MemoriesOk (s : State) : Prop where
  inbuf_wf : s.inbuf.wf = true
  keybuf_wf : s.keybuf.wf = true
  outbuf_wf : s.outbuf.wf = true
  inbuf_below : s.inbuf.below s.inCap = true
  keybuf_below : s.keybuf.below Config.keyLen = true
  outbuf_below : s.outbuf.below (Config.outCap s.inCap) = true

/-- R64: the lengths along the pipeline, each from the stage on that has fixed it, while a command runs. -/
structure LengthsOk (s : State) : Prop where
  inlen : s.busy = true → s.inlen.toNat ≤ s.inCap
  txt : s.busy = true → 2 ≤ s.stage.toNat → s.txt.len + 4 = s.inlen.toNat
  raw : s.busy = true → 3 ≤ s.stage.toNat → 2 * s.raw.len = s.txt.len
  stf : s.busy = true → 4 ≤ s.stage.toNat → s.stf.len + 8 = s.raw.len
  pay : s.busy = true → 5 ≤ s.stage.toNat → s.pay.len ≤ s.stf.len
  pln : s.busy = true → 6 ≤ s.stage.toNat → s.pln.len = s.pay.len ∧ s.pay.len % 8 = 0
  hex : s.busy = true → 7 ≤ s.stage.toNat → s.hex.len = 2 * s.pln.len

/-- The inputs a running command reads are written (R56, R253). -/
structure InputsOk (s : State) : Prop where
  packet : s.busy = true → s.packet.isSome = true
  key : s.busy = true → s.keylen.toNat = Config.keyLen → s.key.isSome = true

/-- What every reachable state satisfies. -/
structure Inv (s : State) : Prop where
  capacity : Config.leastInCap ≤ s.inCap
  flags : FlagsOk s
  memories : MemoriesOk s
  lengths : LengthsOk s
  inputs : InputsOk s

/-- `s` with START written to CTRL as the next event and nothing after it, so that the Engine then runs alone. -/
def State.withStart (s : State) : State := { s with agenda := [.host (.write .w32 0 1#32)] }

/-- The host has written START and the Engine has had seven turns (R203). -/
def afterCommand (s : State) : Host.Outcome State Fault Refusal := Sys2Proof.core.run 8 s.withStart

/-- Seven turns of the Engine, as R203 counts them. -/
def engineTurns : Nat → State → Host.Outcome State Fault Refusal
  | 0, s => .next s
  | n + 1, s =>
    match engineStep s with
    | .next t => engineTurns n t
    | .fault r => .fault r
    | .refused r => .refused r

/-- The result registers agree with what `decode` gives (R210): on success the identifier and the payload, on failure
the error's code and no result. -/
def ShowsResult (t : State) (r : Except ErrorKind DecodedFrame) : Prop :=
  match r with
  | .ok f =>
    t.err = 0#3 ∧ t.ident = f.identifier ∧ t.outlen.toNat = f.payload.length ∧
      t.outbuf.readRange 0 f.payload.length = some f.payload
  | .error e => t.err = errorCode e ∧ t.ident = 0#64 ∧ t.outlen = 0#32

/-- What R230 leaves: the command ended with the code, no result, the sequencer idle, and nothing else changed. -/
def endedWith (s : State) (code : BitVec 3) : State :=
  { s with err := code, busy := false, done := true, outlen := 0#32, ident := 0#64, stage := 0#3 }

/-- The marker conditions of R99 and R121 on a packet, character by character: `c0` or `C0` first, `c2` or `C2` last,
and four characters at least. -/
def GoodMarkers (pkt : List Byte) : Prop :=
  4 ≤ pkt.length ∧
  (pkt[0]? = some 0x63#8 ∨ pkt[0]? = some 0x43#8) ∧ pkt[1]? = some 0x30#8 ∧
  (pkt[pkt.length - 2]? = some 0x63#8 ∨ pkt[pkt.length - 2]? = some 0x43#8) ∧ pkt[pkt.length - 1]? = some 0x32#8

/-- R126: an even number of characters, each one of the 22 hex digits. -/
def HexText (text : List Byte) : Prop := text.length % 2 = 0 ∧ ∀ c ∈ text, hexval c ≠ none

/-- The CHAR tokens of a text executed one after another, none if one of them is no hex digit or stops. -/
def runChars : List Byte → State → Option State
  | [], s => some s
  | c :: cs, s =>
    match decodeChar c with
    | .error _ => none
    | .ok i =>
      match exec i s with
      | .next t => runChars cs t
      | .fault _ | .refused _ => none

/-- The STUFF tokens of a byte sequence executed one after another under the flag ESC each finds, and ESC_END at the
end if ESC is 1 there (R102). -/
def runStuff : List Byte → State → Option State
  | [], s =>
    if s.esc then
      match exec .escEnd s with
      | .next t => some t
      | .fault _ | .refused _ => none
    else some s
  | n :: ns, s =>
    match exec (decodeStuff s.esc n) s with
    | .next t => runStuff ns t
    | .fault _ | .refused _ => none

/-- The Engine's turn is due: nothing stands in the agenda, or its next event is a turn of the Engine, whole or by one
token (assumption log entries 1 and 18). -/
def EngineDue (s : State) : Prop :=
  s.agenda = [] ∨ ∃ rest, s.agenda = .engine :: rest ∨ s.agenda = .token :: rest

/-- The reserved offsets of R46 and R72. -/
def ReservedOffset (inCap off : Nat) : Prop :=
  (0x14 ≤ off ∧ off < 0x18) ∨ (0x30 ≤ off ∧ off < 0x1000) ∨
  (0x1000 + inCap ≤ off ∧ off < Config.outBase inCap) ∨ Config.outBase inCap + Config.outCap inCap ≤ off

/-- The accesses R73 and R46 define: aligned 32-bit accesses to the register offsets, 8-bit accesses to buffer cells,
and either to a reserved offset. -/
def LegalAccess (inCap : Nat) (w : Width) (off : Nat) : Prop :=
  (w = .w32 ∧ off % 4 = 0 ∧ (off < 0x20 ∨ ReservedOffset inCap off)) ∨
  (w = .w8 ∧ ((0x20 ≤ off ∧ off < 0x30) ∨ (0x1000 ≤ off ∧ off < 0x1000 + inCap) ∨
    (Config.outBase inCap ≤ off ∧ off < Config.outBase inCap + Config.outCap inCap) ∨ ReservedOffset inCap off))

/-- What can happen while a command runs and is not reset: a turn of the Engine, or a host access R73 defines, whether
or not it is then ignored (R75, R202, R260). -/
def RunningEvent (inCap : Nat) : Event → Prop
  | .engine => True
  | .host (.read w off) => LegalAccess inCap w off
  | .host (.write w off _) => LegalAccess inCap w off
  | .reset | .token => False

/-- The command of `s` has ended with what `decode` gives on the packet and the key, its inputs left as they were (R210,
R254). -/
def CommandEnded (s t : State) (pkt key : List Byte) : Prop :=
  t.busy = false ∧ t.done = true ∧ t.stage = 0#3 ∧ ShowsResult t (decodePacket pkt key) ∧
    t.inbuf = s.inbuf ∧ t.inlen = s.inlen ∧ t.keybuf = s.keybuf ∧ t.keylen = s.keylen

/-- The state after a host read with this value: only the model's own fields move (R71). -/
def readsWord (s : State) (rest : List Event) (v : Word) : State := { s with agenda := rest, rdata := v }

/-- The state after a host read of a cell: its value, or a free value where it holds none (U5, U6). -/
def readsCell (s : State) (rest : List Event) (cell : Option Byte) : State :=
  match cell with
  | some b => readsWord s rest (b.zeroExtend 32)
  | none => { readsWord s rest ((Config.freeByte s.free).zeroExtend 32) with free := s.free + 1 }

/-- The hex digit rows with the value R96 gives each. -/
def charRows : List (Instr × Nibble) :=
  [(.hex0, 0), (.hex1, 1), (.hex2, 2), (.hex3, 3), (.hex4, 4), (.hex5, 5), (.hex6, 6), (.hex7, 7), (.hex8, 8),
    (.hex9, 9), (.hexUcA, 10), (.hexUcB, 11), (.hexUcC, 12), (.hexUcD, 13), (.hexUcE, 14), (.hexUcF, 15),
    (.hexLcA, 10), (.hexLcB, 11), (.hexLcC, 12), (.hexLcD, 13), (.hexLcE, 14), (.hexLcF, 15)]

/-- The pairs of key indices of the rounds 1 to 32 as R184 lists them, of assignment (a) and then of (c). -/
def keyIndices : List (Nat × Nat) :=
  [(2, 3), (3, 2), (0, 1), (1, 0), (2, 3), (2, 2), (3, 1), (0, 0), (1, 3), (1, 2), (2, 1), (3, 0), (0, 3), (1, 2),
    (1, 1), (2, 0), (3, 3), (0, 2), (1, 1), (1, 0), (2, 3), (3, 2), (0, 1), (0, 0), (1, 3), (2, 2), (3, 1), (0, 0),
    (0, 3), (1, 2), (2, 1), (3, 0)]

end Sys2Proof.Machine
end

