-- ==== Sys2Proof/Certificates/Slice0/Obligations.lean ====
section
/-! DEFINITION. The statements for the provers, from the numbered rules of spec/. -/

open Sys2Proof Sys2Proof.Machine

/-! ## Encodings -/

/-- R94, R102, R105: the decoder gives back every well-formed instruction from the pattern the encoder writes. -/
def Obligations.DecodeEncode : Prop :=
  ∀ i : Instr, WellFormed i → decode (encode i).1 (encode i).2 = .ok i

/-- R105: a pattern that decodes is the encoding of the instruction it decodes to, which is well-formed, and of no other
well-formed instruction. -/
def Obligations.EncodeDecode : Prop :=
  ∀ (f : Format) (bs : List Byte) (i : Instr), decode f bs = .ok i →
    WellFormed i ∧ encode i = (f, bs) ∧ ∀ j : Instr, WellFormed j → encode j = (f, bs) → j = i

/-- R96, R99, R102, R104, R30: words of each of the six formats of R94, written out from the spec's table, decode to
their rows; the placing of the words is the model's choice (assumption log entry 15). -/
def Obligations.TableWordsDecode : Prop :=
  decodeTableWord 8 0x61 = some .hexLcA ∧ decodeTableWord 8 0x46 = some .hexUcF ∧ decodeTableWord 8 0x67 = none ∧
  decodeTableWord 16 0x6330 = some (.sof true) ∧ decodeTableWord 16 0x4332 = some (.eofm false) ∧
  decodeTableWord 16 0x07F = some (.lit 0x7F#8) ∧ decodeTableWord 16 0x0C4 = some .escOpen ∧
  decodeTableWord 16 0x1C4 = some .escSelf ∧ decodeTableWord 16 0x1C5 = some .escChain ∧
  decodeTableWord 16 0x100 = some (.escDec 0#8) ∧ decodeTableWord 32 0x00000001 = some (.start 0#31) ∧
  decodeTableWord 32 0xFFFFFFFE = none ∧ decodeTableWord 8 5 = some .cipher ∧
  decodeTableWord 0 0 = some .escEnd

/-- R95, R96: a code selects a CHAR row exactly when `hexval` gives it a value, and the row has that value. -/
def Obligations.CharRowsAreHexDigits : Prop :=
  ∀ c : Byte,
    (∀ i, decodeChar c = .ok i → ∃ v, hexval c = some v ∧ (i, v) ∈ charRows) ∧
    (∀ e, decodeChar c = .error e → e = .nonHexCharacter ∧ hexval c = none)

/-! ## A step runs the decoded instruction -/

/-- R30, R203, R8: while BUSY, a step with no event due, or with a turn of the Engine due, executes the stage operation
STAGE names. Without BUSY the Engine has no step; the model's step then changes nothing but the agenda. The agenda and
the idle step are the model's own (assumption log entries 1 and 2). -/
def Obligations.StepRunsStage : Prop :=
  ∀ (s : State) (rest : List Event), s.agenda = [] ∧ rest = [] ∨ s.agenda = .engine :: rest →
    (∀ i, s.busy = true → decodeStage s.stage = .ok i → step s = exec i { s with agenda := rest }) ∧
    (s.busy = false → step s = .next { s with agenda := rest })

/-- R31: the model's close look executes the token at the pair (STAGE, CUR): a marker pair of INBUF in FRAME, a
character of TXT in HEXDEC, a byte of STF or its end in DESTUFF (model's choice, assumption log entry 18). -/
def Obligations.StepRunsToken : Prop :=
  ∀ (s : State) (rest : List Event), s.busy = true → s.agenda = .token :: rest →
    (∀ a b i, s.stage = 1#3 → 4 ≤ s.inlen.toNat → s.cur = 0 ∨ s.cur + 2 = s.inlen.toNat →
      s.inbuf.read s.cur = some a → s.inbuf.read (s.cur + 1) = some b → decodeMark a b = .ok i →
      step s = exec i { s with agenda := rest }) ∧
    (∀ c i, s.stage = 2#3 → s.txt.live[s.cur]? = some c → decodeChar c = .ok i →
      step s = exec i { s with agenda := rest }) ∧
    (∀ n, s.stage = 4#3 → s.stf.live[s.cur]? = some n →
      step s = exec (decodeStuff s.esc n) { s with agenda := rest }) ∧
    (s.stage = 4#3 → s.cur = s.stf.len → s.esc = true → step s = exec .escEnd { s with agenda := rest })

/-- R40, R104: a 32-bit write to CTRL executes the command its value decodes to; a value with bit 0 clear is no
command and changes nothing; values that differ only in bits 31:1 have the same effect. -/
def Obligations.StepRunsCommand : Prop :=
  ∀ (s : State) (v : Word) (rest : List Event), s.agenda = .host (.write .w32 0 v) :: rest →
    (∀ i, decodeCmd v = .ok i → step s = exec i { s with agenda := rest }) ∧
    (v.getLsbD 0 = false → step s = .next { s with agenda := rest }) ∧
    (v.getLsbD 0 = true → step s = exec (.start 0#31) { s with agenda := rest })

/-! ## Characters and markers -/

/-- R67, R96, R125: each hex digit character completes. At an even cursor its nibble is held, at an odd cursor the byte
16 * first + second is appended to RAW; the cursor passes it and nothing else changes. The model's choice: that the
first nibble waits in `nib` (assumption log entry 9), that the cursor passes one character where R205 counts a pair, and
that a digit at any odd cursor takes whatever `nib` holds (entry 18). -/
def Obligations.CharTokensComplete : Prop :=
  ∀ (s : State) (i : Instr) (v : Nibble), (i, v) ∈ charRows →
    (s.cur % 2 = 0 → exec i s = .next { s with nib := v, cur := s.cur + 1 }) ∧
    (s.cur % 2 = 1 → ∃ t, exec i s = .next t ∧ t = { s with raw := t.raw, cur := s.cur + 1 } ∧
      ∃ b : Byte, t.raw.live = s.raw.live ++ [b] ∧ b.toNat = 16 * s.nib.toNat + v.toNat)

/-- R99, R120: in a packet of at least four characters, SOF at the cursor 0 and EOFM at the cursor `INLEN - 2` complete:
the cursor passes the pair and nothing else changes, whatever the case of the letter. That a marker token moves the
cursor is the model's choice (assumption log entry 18). -/
def Obligations.MarkerTokensComplete : Prop :=
  ∀ (s : State) (lowerCase : Bool), 4 ≤ s.inlen.toNat →
    (s.cur = 0 → exec (.sof lowerCase) s = .next { s with cur := 2 }) ∧
    (s.cur + 2 = s.inlen.toNat → exec (.eofm lowerCase) s = .next { s with cur := s.inlen.toNat })

/-- R105, R121: a marker token out of its position, or in a packet of fewer than four characters, is a frame error.
That a marker token at a cursor inside the packet is one is the model's choice (assumption log entry 18): to FRAME
such a pair is ordinary data (R99, R122). -/
def Obligations.MisplacedMarkerIsFrameError : Prop :=
  ∀ (s : State) (lowerCase : Bool),
    (s.inlen.toNat < 4 ∨ s.cur ≠ 0 → exec (.sof lowerCase) s = .next (endedWith s 1#3)) ∧
    (s.inlen.toNat < 4 ∨ s.cur + 2 ≠ s.inlen.toNat → exec (.eofm lowerCase) s = .next (endedWith s 1#3))

/-! ## Tokens of the stuffed payload -/

/-- R102, R153 to R158: each token completes; it appends to PAY what its row says it emits, leaves ESC as its row
says, and (but for ESC_END) the cursor passes one byte; nothing else changes. That a token does so whatever ESC is,
and LIT and ESC_DEC with every operand, is the model's choice (assumption log entry 18): the decoder selects each row
only under its own ESC and operand. -/
def Obligations.StuffTokensComplete : Prop :=
  ∀ s : State,
    (∀ n : Byte, ∃ t, exec (.lit n) s = .next t ∧
      t.pay.live = s.pay.live ++ [n] ∧ t = { s with pay := t.pay, esc := false, cur := s.cur + 1 }) ∧
    exec .escOpen s = .next { s with esc := true, cur := s.cur + 1 } ∧
    (∃ t, exec .escSelf s = .next t ∧
      t.pay.live = s.pay.live ++ [0xC4#8] ∧ t = { s with pay := t.pay, esc := false, cur := s.cur + 1 }) ∧
    (∀ n : Byte, ∃ t b, exec (.escDec n) s = .next t ∧ t.pay.live = s.pay.live ++ [b] ∧
      b.toNat = (n.toNat + 255) % 256 ∧ t = { s with pay := t.pay, esc := false, cur := s.cur + 1 }) ∧
    exec .escChain s = .next { s with esc := true, cur := s.cur + 1 } ∧
    exec .escEnd s = .next { s with esc := false }

/-- R125, R96: HEXDEC on a hex text is its CHAR tokens executed in order from an empty RAW and the cursor 0, and then
IDEXT is next, at the cursor 0 (R31; assumption log entry 11). -/
def Obligations.HexdecRunsItsTokens : Prop :=
  ∀ s : State, HexText s.txt.live →
    ∃ t, runChars s.txt.live { s with raw := s.raw.clear, cur := 0 } = some t ∧
      exec .hexdec s = .next { t with stage := 3#3, cur := 0 }

/-- R102, R150: DESTUFF is its STUFF tokens executed in order from an empty PAY, ESC = 0 and the cursor 0, and then
CIPHER is next, at the cursor 0 (R31; assumption log entry 11). -/
def Obligations.DestuffRunsItsTokens : Prop :=
  ∀ s : State,
    ∃ t, runStuff s.stf.live { s with pay := s.pay.clear, esc := false, cur := 0 } = some t ∧
      exec .destuff s = .next { t with stage := 5#3, cur := 0 }

/-! ## START -/

/-- R201, R253: inside the launch premise START completes, whatever bits 31:1: BUSY set, DONE, ERR, OUTLEN, IDENT and
the six length registers cleared, STAGE at FRAME, the cursor at its start (R31; assumption log entry 11), and nothing
else changed. -/
def Obligations.StartAccepted : Prop :=
  ∀ (s : State) (ignored : BitVec 31), LaunchPremise s →
    ∃ t, exec (.start ignored) s = .next t ∧
      t.txt.len = 0 ∧ t.raw.len = 0 ∧ t.stf.len = 0 ∧ t.pay.len = 0 ∧ t.pln.len = 0 ∧ t.hex.len = 0 ∧
      t = { s with
        busy := true, done := false, err := 0#3, outlen := 0#32, ident := 0#64, stage := 1#3, cur := 0,
        txt := t.txt, raw := t.raw, stf := t.stf, pay := t.pay, pln := t.pln, hex := t.hex }

/-- R202, R253, R42, R56: a START while BUSY = 1 is ignored; one that is not ignored and lies outside the launch
premise is refused, by the name of what is missing. -/
def Obligations.StartIgnoredOrRefused : Prop :=
  ∀ (s : State) (ignored : BitVec 31),
    (s.busy = true → exec (.start ignored) s = .next s) ∧
    (s.busy = false → s.inCap < s.inlen.toNat → exec (.start ignored) s = .refused .overCapacity) ∧
    (s.busy = false → s.inlen.toNat ≤ s.inCap → (∃ i, i < s.inlen.toNat ∧ s.inbuf.read i = none) →
      exec (.start ignored) s = .refused .unwrittenCell) ∧
    (s.busy = false → s.inlen.toNat ≤ s.inCap → s.keylen = 16#32 → (∃ i, i < 16 ∧ s.keybuf.read i = none) →
      exec (.start ignored) s = .refused .unwrittenCell)

/-! ## FRAME -/

/-- R120, R122: with the packet written and good markers FRAME completes: TXT is the packet without its first two and
last two characters, STAGE is HEXDEC, the cursor is 0 (R31; assumption log entry 11), and nothing else changes. -/
def Obligations.FrameAccepts : Prop :=
  ∀ (s : State) (pkt : List Byte), s.packet = some pkt → s.inlen.toNat ≤ s.inCap → GoodMarkers pkt →
    ∃ t, exec .frame s = .next t ∧ t.txt.live = (pkt.drop 2).take (pkt.length - 4) ∧
      t.txt.len + 4 = s.inlen.toNat ∧ t = { s with txt := t.txt, cur := 0, stage := 2#3 }

/-- R121: with the packet written, FRAME raises FrameError, and does nothing else but set CUR to 0, exactly when the
packet has fewer than four characters, does not start with `c0` or `C0`, or does not end with `c2` or `C2`. That CUR
is then 0 is the model's choice: R31 starts it there, and U10 allows any value after a command (assumption log entry
11). -/
def Obligations.FrameRejects : Prop :=
  ∀ (s : State) (pkt : List Byte), s.packet = some pkt → s.inlen.toNat ≤ s.inCap →
    (exec .frame s = .next (endedWith { s with cur := 0 } 1#3) ↔ ¬ GoodMarkers pkt)

/-! ## HEXDEC and HEXENC -/

/-- R125, R126: on a hex text HEXDEC completes: RAW holds, for each pair, 16 times the first digit's value plus the
second's, STAGE is IDEXT, the cursor is 0 (R31; assumption log entry 11), and nothing else but the model's own `nib`
changes. -/
def Obligations.HexdecCompletes : Prop :=
  ∀ s : State, HexText s.txt.live →
    ∃ t, exec .hexdec s = .next t ∧ hexdec s.txt.live = some t.raw.live ∧ 2 * t.raw.len = s.txt.len ∧
      (∀ j c0 c1, s.txt.live[2 * j]? = some c0 → s.txt.live[2 * j + 1]? = some c1 →
        ∃ b v0 v1, t.raw.live[j]? = some b ∧ hexval c0 = some v0 ∧ hexval c1 = some v1 ∧
          b.toNat = 16 * v0.toNat + v1.toNat) ∧
      t = { s with raw := t.raw, nib := t.nib, cur := 0, stage := 3#3 }

/-- R126: HEXDEC raises EncodingError, and does nothing else but set CUR to 0, exactly when the text has odd length or
a character that is no hex digit. That CUR is then 0 is the model's choice: R31 starts it there, and U10 allows any
value after a command (assumption log entry 11). R27 makes CUR the index of the check's loop too. -/
def Obligations.HexdecRejects : Prop :=
  ∀ s : State, exec .hexdec s = .next (endedWith { s with cur := 0 } 2#3) ↔
    (s.txt.len % 2 = 1 ∨ ∃ c ∈ s.txt.live, hexval c = none)

/-- R131: the codec is exact and lossless in both directions. -/
def Obligations.CodecLossless : Prop :=
  (∀ b : List Byte, hexdec (hexenc b) = some b ∧ (hexenc b).length = 2 * b.length) ∧
  (∀ x : List Byte, HexText x → ∃ b, hexdec x = some b ∧ hexenc b = x.map lower)

/-- R130, R97: HEXENC always completes: HEX holds two characters per byte of PLN, high nibble first, each one of `0` to
`9` or `a` to `f`, STAGE is TRIM, the cursor is 0 (R31; assumption log entry 11), and nothing else changes. -/
def Obligations.HexencCompletes : Prop :=
  ∀ s : State, ∃ t, exec .hexenc s = .next t ∧ t.hex.len = 2 * s.pln.len ∧
    (∀ j b, s.pln.live[j]? = some b → ∃ c0 c1 v0 v1, t.hex.live[2 * j]? = some c0 ∧ t.hex.live[2 * j + 1]? = some c1 ∧
      hexval c0 = some v0 ∧ hexval c1 = some v1 ∧ b.toNat = 16 * v0.toNat + v1.toNat) ∧
    (∀ c ∈ t.hex.live, (0x30 ≤ c.toNat ∧ c.toNat ≤ 0x39) ∨ (0x61 ≤ c.toNat ∧ c.toNat ≤ 0x66)) ∧
    t = { s with hex := t.hex, cur := 0, stage := 7#3 }

/-! ## IDEXT -/

/-- R140, R142: with eight bytes or more IDEXT completes: IDR is their little-endian value, STF the rest, STAGE is
DESTUFF, the cursor is 0 (R31; assumption log entry 11), and nothing else changes. -/
def Obligations.IdextCompletes : Prop :=
  ∀ (s : State) (r0 r1 r2 r3 r4 r5 r6 r7 : Byte) (rest : List Byte),
    s.raw.live = r0 :: r1 :: r2 :: r3 :: r4 :: r5 :: r6 :: r7 :: rest →
    ∃ t, exec .idext s = .next t ∧
      t.idr.toNat = r0.toNat + r1.toNat * 2 ^ 8 + r2.toNat * 2 ^ 16 + r3.toNat * 2 ^ 24 + r4.toNat * 2 ^ 32 +
        r5.toNat * 2 ^ 40 + r6.toNat * 2 ^ 48 + r7.toNat * 2 ^ 56 ∧
      t.stf.live = rest ∧ t = { s with idr := t.idr, stf := t.stf, cur := 0, stage := 4#3 }

/-- R141: IDEXT raises FrameError, and does nothing else but set CUR to 0, exactly when RAW has fewer than eight
bytes. That CUR is then 0 is the model's choice: R31 starts it there, and U10 allows any value after a command
(assumption log entry 11). -/
def Obligations.IdextRejects : Prop :=
  ∀ s : State, exec .idext s = .next (endedWith { s with cur := 0 } 1#3) ↔ s.raw.len < 8

/-! ## DESTUFF -/

/-- R150, R163, R165: DESTUFF always completes: PAY is `ds(0, STF)`, ESC is 0, STAGE is CIPHER, the cursor is 0
(R31; assumption log entry 11), and nothing else changes. -/
def Obligations.DestuffCompletes : Prop :=
  ∀ s : State, ∃ t, exec .destuff s = .next t ∧ t.pay.live = ds false s.stf.live ∧
    t = { s with pay := t.pay, esc := false, cur := 0, stage := 5#3 }

/-- R162: DESTUFF never lengthens and emits at most one byte per input byte, keeps the length exactly when STF holds no
sentinel, and gives an empty PAY on the three non-empty inputs the rule names. -/
def Obligations.DestuffLengths : Prop :=
  (∀ s t : State, exec .destuff s = .next t →
    t.pay.len ≤ s.stf.len ∧ (t.pay.len = s.stf.len ↔ 0xC4#8 ∉ s.stf.live)) ∧
  (∀ (s : State) (n : Byte), (destuffByte s n).pay.len ≤ s.pay.len + 1) ∧
  (∀ s t : State, exec .destuff s = .next t →
    s.stf.live = [0xC4#8] ∨ s.stf.live = [0xC4#8, 0xC5#8] ∨ s.stf.live = [0xC4#8, 0xC5#8, 0xC5#8] → t.pay.len = 0)

/-- R160: the PAY of DESTUFF is what the in-place algorithm of R151 gives on a copy of STF. -/
def Obligations.DestuffEqualsInplace : Prop :=
  ∀ (s t : State) (x : List Byte), s.stf.live = x → exec .destuff s = .next t → t.pay.live = destuffInplace x

/-! ## CIPHER -/

/-- R170, R171, R185: with a 16-byte key and whole blocks CIPHER completes: PLN is the decryption of each chunk in
order and as long as PAY, STAGE is HEXENC, the cursor is 0 (R31; assumption log entry 11), and nothing else but the
cipher's own registers changes; if there was a chunk, K holds the key words and SUM ends at 0 (R175, R184). -/
def Obligations.CipherCompletes : Prop :=
  ∀ (s : State) (key : List Byte), s.keylen = 16#32 → s.key = some key → s.pay.len % 8 = 0 →
    ∃ t, exec .cipher s = .next t ∧ t.pln.live = decryptAll key s.pay.live ∧ t.pln.len = s.pay.len ∧
      (s.pay.len ≠ 0 → t.k = keySplit key ∧ t.cip.sum = 0#32) ∧
      t = { s with pln := t.pln, k := t.k, cip := t.cip, cur := 0, stage := 6#3 }

/-- R182: with no chunk CIPHER completes and checks nothing, whatever the key: PLN is empty, STAGE is HEXENC, the cursor
is 0 (R31; assumption log entry 11), and nothing else changes. -/
def Obligations.CipherWithoutChunks : Prop :=
  ∀ s : State, s.pay.len = 0 →
    ∃ t, exec .cipher s = .next t ∧ t.pln.len = 0 ∧ t = { s with pln := t.pln, cur := 0, stage := 6#3 }

/-- R170, R172, R173: with a chunk and a key of another length than 16, KeyError whatever the chunk lengths; of the
state before only PLNLEN and CUR are cleared, by the first line of R170, besides what R230 writes. That they stay so
after the command, and the other datapath registers as they were, is the model's choice: U10 allows any value
(assumption log entry 11). -/
def Obligations.CipherKeyError : Prop :=
  ∀ s : State, s.pay.len ≠ 0 → s.keylen ≠ 16#32 →
    ∃ t, exec .cipher s = .next t ∧ t.pln.len = 0 ∧
      t = { endedWith s 3#3 with pln := t.pln, cur := 0 }

/-- R172, R174: with a 16-byte key and a last chunk shorter than a block, BlockError; besides what R230 writes only PLN,
the cipher's own registers and the cursor change. -/
def Obligations.CipherBlockError : Prop :=
  ∀ (s : State) (key : List Byte), s.keylen = 16#32 → s.key = some key → s.pay.len % 8 ≠ 0 →
    ∃ t, exec .cipher s = .next t ∧
      t = { endedWith s 4#3 with pln := t.pln, k := t.k, cip := t.cip, cur := t.cur }

/-- R177: one round, term by term: (a) V1 with SUM before the decrement and the key index from bits 12:11, (b) SUM,
(c) V0 with SUM after the decrement, the key index from bits 1:0 and the new V1. -/
def Obligations.RoundFollowsTheRule : Prop :=
  ∀ (k : KeyWords) (c : Cip),
    let key : Word → Option Word := fun i => [k.k0, k.k1, k.k2, k.k3][i.toNat]?
    ∃ ka kc : Word, key ((c.sum >>> 11) &&& 3#32) = some ka ∧ key ((c.sum - 0x9E3779B9#32) &&& 3#32) = some kc ∧
      (xteaRound k c).v1 = c.v1 - ((((c.v0 <<< 4) ^^^ (c.v0 >>> 5)) + c.v0) ^^^ (c.sum + ka)) ∧
      (xteaRound k c).sum = c.sum - 0x9E3779B9#32 ∧
      (xteaRound k c).v0 = c.v0 - (((((xteaRound k c).v1 <<< 4) ^^^ ((xteaRound k c).v1 >>> 5)) + (xteaRound k c).v1) ^^^
        ((xteaRound k c).sum + kc))

/-- R184: before round r + 1 of a block SUM is DELTA times 32 - r, whatever the key and the data; after round 32 it is
0; and that round's assignments (a) and (c) add the key words whose indices the rule lists. -/
def Obligations.SumSchedule : Prop :=
  (∀ (k : KeyWords) (chunk : List Byte) (r : Nat), r ≤ 32 →
    (xteaRounds k r (blockLoad chunk)).sum = 0x9E3779B9#32 * BitVec.ofNat 32 (32 - r)) ∧
  (∀ (k : KeyWords) (chunk : List Byte), (blockRun k chunk).sum = 0#32) ∧
  (∀ (k : KeyWords) (chunk : List Byte) (r ia ic : Nat), keyIndices[r]? = some (ia, ic) →
    let c := xteaRounds k r (blockLoad chunk)
    let c' := xteaRounds k (r + 1) (blockLoad chunk)
    ∃ ka kc : Word, [k.k0, k.k1, k.k2, k.k3][ia]? = some ka ∧ [k.k0, k.k1, k.k2, k.k3][ic]? = some kc ∧
      c'.v1 = c.v1 - ((((c.v0 <<< 4) ^^^ (c.v0 >>> 5)) + c.v0) ^^^ (c.sum + ka)) ∧
      c'.v0 = c.v0 - ((((c'.v1 <<< 4) ^^^ (c'.v1 >>> 5)) + c'.v1) ^^^ (c'.sum + kc)))

/-- R186: for every 16-byte key the block routine is a bijection on 8-byte blocks, with the encrypt routine of
spec/95_test_vectors.md section 4 as its inverse. -/
def Obligations.DecryptIsABijection : Prop :=
  ∀ key block : List Byte, key.length = 16 → block.length = 8 →
    (xteaDec key block).length = 8 ∧ (xteaEnc key block).length = 8 ∧
    xteaDec key (xteaEnc key block) = block ∧ xteaEnc key (xteaDec key block) = block

/-- R181, R171: no chaining: the plaintext of whole blocks followed by more is the plaintext of each part, and a single
block's plaintext is the block routine's. For a key shorter than 16 bytes, which no command decrypts with (R172), the
missing bytes count as 0: the model's choice (assumption log entry 21). -/
def Obligations.BlocksAreIndependent : Prop :=
  (∀ key a b : List Byte, a.length % 8 = 0 → decryptAll key (a ++ b) = decryptAll key a ++ decryptAll key b) ∧
  (∀ key a : List Byte, a.length = 8 → decryptAll key a = xteaDec key a)

/-- R66: storing a value least significant byte first and reading it back gives the value, and reading bytes and
storing them back gives the bytes. R175, R179, R180: the key words, the block's load and its store byte by byte: word
j of the key is its bytes 4j to 4j+3, V0 is the first four bytes of the block and V1 the last four, in and out, the
byte at the lowest index the least significant. -/
def Obligations.LittleEndianRoundTrip : Prop :=
  (∀ n v : Nat, (leBytes n v).length = n ∧ memRead (leBytes n v) 0 n = v % 2 ^ (8 * n)) ∧
  (∀ bs : List Byte, leBytes bs.length (memRead bs 0 bs.length) = bs) ∧
  (∀ (a0 a1 a2 a3 b0 b1 b2 b3 c0 c1 c2 c3 d0 d1 d2 d3 : Byte),
    keySplit [a0, a1, a2, a3, b0, b1, b2, b3, c0, c1, c2, c3, d0, d1, d2, d3] =
      { k0 := a3 ++ a2 ++ a1 ++ a0, k1 := b3 ++ b2 ++ b1 ++ b0, k2 := c3 ++ c2 ++ c1 ++ c0, k3 := d3 ++ d2 ++ d1 ++ d0 }) ∧
  (∀ (a0 a1 a2 a3 b0 b1 b2 b3 : Byte),
    (blockLoad [a0, a1, a2, a3, b0, b1, b2, b3]).v0 = a3 ++ a2 ++ a1 ++ a0 ∧
    (blockLoad [a0, a1, a2, a3, b0, b1, b2, b3]).v1 = b3 ++ b2 ++ b1 ++ b0 ∧
    ∀ c : Cip, c.v0 = a3 ++ a2 ++ a1 ++ a0 → c.v1 = b3 ++ b2 ++ b1 ++ b0 →
      blockStore c = [a0, a1, a2, a3, b0, b1, b2, b3])

/-! ## TRIM -/

/-- R200: with four characters or more that fit OUTBUF, TRIM completes: OUTBUF takes all but the last four characters
and keeps every other cell, OUTLEN is their number, IDENT is IDR, the command ends without error, and nothing else but
the cursor changes. -/
def Obligations.TrimCompletes : Prop :=
  ∀ s : State, 4 ≤ s.hex.len → s.hex.len - 4 ≤ Config.outCap s.inCap →
    ∃ t, exec .trim s = .next t ∧
      (∀ i, i < s.hex.len - 4 → t.outbuf.read i = s.hex.live[i]?) ∧
      (∀ i, s.hex.len - 4 ≤ i → t.outbuf.read i = s.outbuf.read i) ∧
      t = { s with
        outbuf := t.outbuf, outlen := BitVec.ofNat 32 (s.hex.len - 4), ident := s.idr,
        err := 0#3, busy := false, done := true, cur := t.cur, stage := 0#3 }

/-- R213: TRIM raises ChecksumError, and does nothing else but set CUR to 0, exactly when HEX has fewer than four
characters. That CUR is then 0 is the model's choice: R31 starts it there, and U10 allows any value after a command
(assumption log entry 11). -/
def Obligations.TrimRejects : Prop :=
  ∀ s : State, exec .trim s = .next (endedWith { s with cur := 0 } 5#3) ↔ s.hex.len < 4

/-- R214: the trimmed characters are not examined: other last four characters give the same outcome, HEX apart. -/
def Obligations.TrimNeverReadsTheChecksum : Prop :=
  ∀ (s : State) (body check check' : List Byte), check.length = 4 → check'.length = 4 → s.hex.live = body ++ check →
    ∀ t, exec .trim s = .next t →
      exec .trim { s with hex := { s.hex with live := body ++ check' } } =
        .next { t with hex := { s.hex with live := body ++ check' } }

/-! ## Errors -/

/-- R221, R230: an instruction that newly sets ERR is one of those the matrix allows that code, and it ends the command
as `raise` does: not busy, done, no result, idle, and OUTBUF not written. -/
def Obligations.ErrorsFollowTheMatrix : Prop :=
  ∀ (i : Instr) (s t : State), s.err = 0#3 → exec i s = .next t → t.err ≠ 0#3 →
    ((t.err = 1#3 ∧ (i = .frame ∨ i = .idext ∨ ∃ c, i = .sof c ∨ i = .eofm c)) ∨ (t.err = 2#3 ∧ i = .hexdec) ∨
      ((t.err = 3#3 ∨ t.err = 4#3) ∧ i = .cipher) ∨ (t.err = 5#3 ∧ i = .trim)) ∧
    t.busy = false ∧ t.done = true ∧ t.outlen = 0#32 ∧ t.ident = 0#64 ∧ t.stage = 0#3 ∧ t.outbuf = s.outbuf

/-- R47, R48, R200: no instruction writes INBUF, INLEN, KEYBUF or KEYLEN, and only TRIM writes OUTBUF. The parameter
IN_CAP does not change either (assumption log entry 3). -/
def Obligations.InstructionsKeepTheInputs : Prop :=
  ∀ (i : Instr) (s t : State), exec i s = .next t →
    t.inbuf = s.inbuf ∧ t.inlen = s.inlen ∧ t.keybuf = s.keybuf ∧ t.keylen = s.keylen ∧ t.inCap = s.inCap ∧
      (i ≠ .trim → t.outbuf = s.outbuf)

/-! ## The host port and Reset -/

/-- R41, R51: BUSY, DONE and ERR stand at bits 0, 1 and 4:2 of STATUS, the bits above are 0, and the wire `done` is
DONE. -/
def Obligations.StatusFields : Prop :=
  ∀ s : State, (statusWord s).getLsbD 0 = s.busy ∧ (statusWord s).getLsbD 1 = s.done ∧
    (statusWord s).extractLsb' 2 3 = s.err ∧ (statusWord s).extractLsb' 5 27 = 0#27 ∧ doneWire s = s.done

/-- R47, R72: aligned 32-bit reads of the register offsets give the register's value and change none of the CORE's
state; CTRL reads 0. That the value arrives in `rdata` is the model's choice (assumption log entry 8). -/
def Obligations.RegisterReads : Prop :=
  ∀ (s : State) (rest : List Event) (off : Nat) (v : Word),
    (off, v) ∈ [(0x00, 0#32), (0x04, statusWord s), (0x08, s.inlen), (0x0C, s.keylen), (0x10, s.outlen), (0x14, 0#32),
      (0x18, s.ident.extractLsb' 0 32), (0x1C, s.ident.extractLsb' 32 32)] →
    s.agenda = .host (.read .w32 off) :: rest → step s = .next (readsWord s rest v)

/-- R47, R63, R72: 8-bit reads of the cells of KEYBUF, INBUF and OUTBUF. A cell without a value, and a cell of OUTBUF
without a result, gives a free value (U5, U6; assumption log entry 4). -/
def Obligations.CellReads : Prop :=
  ∀ (s : State) (rest : List Event) (i : Nat),
    (i < 16 → s.agenda = .host (.read .w8 (0x20 + i)) :: rest →
      step s = .next (readsCell s rest (s.keybuf.read i))) ∧
    (i < s.inCap → s.agenda = .host (.read .w8 (0x1000 + i)) :: rest →
      step s = .next (readsCell s rest (s.inbuf.read i))) ∧
    (i < Config.outCap s.inCap → s.agenda = .host (.read .w8 (Config.outBase s.inCap + i)) :: rest →
      s.done = true → i < s.outlen.toNat → step s = .next (readsCell s rest (s.outbuf.read i))) ∧
    (i < Config.outCap s.inCap → s.agenda = .host (.read .w8 (Config.outBase s.inCap + i)) :: rest →
      s.done = false ∨ s.outlen.toNat ≤ i → step s = .next (readsCell s rest none))

/-- R46: a reserved offset reads as 0 and ignores writes, for an 8-bit access or a naturally aligned 32-bit access
(assumption log entry 12 for the bytes of 0x14). That every offset at or above OUT_BASE + OUT_CAP is one, whatever the
end of the platform's window, is the model's choice (entry 14; U4). -/
def Obligations.ReservedOffsets : Prop :=
  ∀ (s : State) (rest : List Event) (w : Width) (off : Nat) (v : Word),
    ReservedOffset s.inCap off → w = .w8 ∨ (w = .w32 ∧ off % 4 = 0) →
    (s.agenda = .host (.read w off) :: rest → step s = .next (readsWord s rest 0#32)) ∧
    (s.agenda = .host (.write w off v) :: rest → step s = .next { s with agenda := rest })

/-- R73: any access of another size or alignment than R73 and R46 define is refused. -/
def Obligations.BadAccessRefused : Prop :=
  ∀ (s : State) (rest : List Event) (w : Width) (off : Nat) (v : Word), ¬ LegalAccess s.inCap w off →
    (s.agenda = .host (.read w off) :: rest → step s = .refused .badAccess) ∧
    (s.agenda = .host (.write w off v) :: rest → step s = .refused .badAccess)

/-- R47, R75: while BUSY = 0 a write to INLEN or KEYLEN stores the value, an 8-bit write to a cell of KEYBUF or INBUF
stores bits 7:0 there and leaves every other cell as it was, and nothing else changes. -/
def Obligations.HostWritesTakeEffect : Prop :=
  ∀ (s : State) (rest : List Event) (v : Word) (i : Nat), s.busy = false →
    (s.agenda = .host (.write .w32 0x08 v) :: rest → step s = .next { s with agenda := rest, inlen := v }) ∧
    (s.agenda = .host (.write .w32 0x0C v) :: rest → step s = .next { s with agenda := rest, keylen := v }) ∧
    (i < 16 → s.agenda = .host (.write .w8 (0x20 + i) v) :: rest →
      ∃ t, step s = .next t ∧ t = { s with agenda := rest, keybuf := t.keybuf } ∧
        ∀ j, t.keybuf.read j = if j = i then some (v.extractLsb' 0 8) else s.keybuf.read j) ∧
    (i < s.inCap → s.agenda = .host (.write .w8 (0x1000 + i) v) :: rest →
      ∃ t, step s = .next t ∧ t = { s with agenda := rest, inbuf := t.inbuf } ∧
        ∀ j, t.inbuf.read j = if j = i then some (v.extractLsb' 0 8) else s.inbuf.read j)

/-- R41, R44, R45, R47, R75, R202, R260: a defined host write changes nothing while BUSY = 1, CTRL included, and at any
time where the place is STATUS, OUTLEN, IDENT or OUTBUF. -/
def Obligations.IgnoredWrites : Prop :=
  ∀ (s : State) (rest : List Event) (w : Width) (off : Nat) (v : Word),
    LegalAccess s.inCap w off → s.agenda = .host (.write w off v) :: rest →
    s.busy = true ∨ off ∈ [0x04, 0x10, 0x18, 0x1C] ∨
      (Config.outBase s.inCap ≤ off ∧ off < Config.outBase s.inCap + Config.outCap s.inCap) →
    step s = .next { s with agenda := rest }

/-- R250, R55: Reset in any state, busy or not: the flags, lengths, result registers and STAGE are 0 and no host-visible
cell holds a value. The registers R55 leaves unspecified are not part of this statement. -/
def Obligations.ResetFromAnyState : Prop :=
  ∀ (s : State) (rest : List Event), s.agenda = .reset :: rest →
    ∃ t, step s = .next t ∧ t.busy = false ∧ t.done = false ∧ t.err = 0#3 ∧ t.stage = 0#3 ∧ t.inlen = 0#32 ∧
      t.keylen = 0#32 ∧ t.outlen = 0#32 ∧ t.ident = 0#64 ∧ t.txt.len = 0 ∧ t.raw.len = 0 ∧ t.stf.len = 0 ∧
      t.pay.len = 0 ∧ t.pln.len = 0 ∧ t.hex.len = 0 ∧ doneWire t = false ∧ t.agenda = rest ∧
      ∀ i, t.inbuf.read i = none ∧ t.keybuf.read i = none ∧ t.outbuf.read i = none

/-! ## Invariants -/

/-- R55, R35, R64: the invariant holds at reset. -/
def Obligations.InvariantAtReset : Prop := Inv State.reset

/-- R35, R41, R44, R45, R48, R64, R56: every step from a state that satisfies the invariant gives one that does. -/
def Obligations.InvariantKept : Prop := ∀ s t : State, Inv s → step s = .next t → Inv t

/-- R35: the flag invariants hold at reset and are kept by every step, whatever the rest of the state. -/
def Obligations.FlagInvariantsKept : Prop :=
  FlagsOk State.reset ∧ ∀ s t : State, FlagsOk s → step s = .next t → FlagsOk t

/-- R203, R64: in a state that satisfies the invariant a running Engine always completes its step: no fault, no
refusal. -/
def Obligations.EngineNeverStops : Prop := ∀ s : State, Inv s → s.busy = true → ∃ t, engineStep s = .next t

/-- R64: no step from a state that satisfies the invariant is a fault, whatever the event. -/
def Obligations.StepNeverFaults : Prop := ∀ s : State, Inv s → ∀ r, step s ≠ .fault r

/-- R32: STAGE changes only by a turn of the Engine that completes a stage without error (to the next code, never
around; TRIM to IDLE) or raises (to IDLE, with a code in ERR), by Reset (to IDLE), and by a START from a CORE that is
not busy (to FRAME). R31: CUR is 0 where a stage is next, and while a command stays in one stage it never falls. The
model's choice: that CUR is 0 already at the step that sets the stage, START included, which R201 does not list
(assumption log entry 11), and that the event `token` counts as a turn of the Engine (entry 18). -/
def Obligations.StageOrder : Prop :=
  ∀ s t : State, step s = .next t →
    (t.stage = s.stage ∧ (s.busy = true → t.busy = true → s.cur ≤ t.cur)) ∨
    (EngineDue s ∧ s.busy = true ∧ t.busy = true ∧ t.stage = s.stage + 1#3 ∧ t.stage ≠ 0#3 ∧ t.cur = 0) ∨
    (EngineDue s ∧ s.busy = true ∧ s.stage = 7#3 ∧ t.stage = 0#3 ∧ t.busy = false ∧ t.done = true ∧ t.err = 0#3) ∨
    (EngineDue s ∧ s.busy = true ∧ t.stage = 0#3 ∧ t.busy = false ∧ t.done = true ∧ t.err ≠ 0#3) ∨
    (t.stage = 0#3 ∧ ∃ rest, s.agenda = .reset :: rest) ∨
    (s.busy = false ∧ t.busy = true ∧ t.stage = 1#3 ∧ t.cur = 0 ∧
      ∃ v rest, s.agenda = .host (.write .w32 0 v) :: rest ∧ v.getLsbD 0 = true)

/-! ## The command -/

/-- R210: inside the launch premise, START and seven turns of the Engine end the command with what `decode` gives on the
packet and the key, and leave the inputs as they were. R75, R260: whatever defined host reads and writes come between
START and the end of the command, among at least seven turns of the Engine, the command ends so too, and BUSY is 1 at
every step before. -/
def Obligations.CommandComputesDecode : Prop :=
  ∀ (s : State) (pkt key : List Byte), LaunchPremise s → HoldsInputs s pkt key →
    (∃ t, afterCommand s = .next t ∧ CommandEnded s t pkt key) ∧
    ∀ es : List Event, (∀ e ∈ es, RunningEvent s.inCap e) → 7 ≤ es.count .engine →
      let u : State := { s with agenda := .host (.write .w32 0 1#32) :: es }
      ∃ n t, n ≤ es.length ∧ Sys2Proof.core.run (n + 1) u = .next t ∧ CommandEnded s t pkt key ∧
        ∀ m, m < n → ∃ v, Sys2Proof.core.run (m + 1) u = .next v ∧ v.busy = true

/-- R203, R204: every accepted START reaches DONE in at most seven turns of the Engine. -/
def Obligations.CommandTerminates : Prop :=
  ∀ (s u : State) (ignored : BitVec 31), LaunchPremise s → exec (.start ignored) s = .next u →
    ∃ n t, n ≤ 7 ∧ engineTurns n u = .next t ∧ t.done = true ∧ t.busy = false ∧ t.stage = 0#3

/-- R256: two states that satisfy the launch premise with equal inputs end their commands with equal STATUS, IDENT,
OUTLEN and `OUTBUF[0..OUTLEN)`, whatever else they hold. -/
def Obligations.CommandsAreStateless : Prop :=
  ∀ s1 s2 : State, LaunchPremise s1 → LaunchPremise s2 → s1.inlen = s2.inlen → s1.packet = s2.packet →
    s1.keylen = s2.keylen → (s1.keylen = 16#32 → s1.key = s2.key) →
    ∃ t1 t2, afterCommand s1 = .next t1 ∧ afterCommand s2 = .next t2 ∧ t1.done = true ∧ t2.done = true ∧
      statusWord t1 = statusWord t2 ∧ t1.ident = t2.ident ∧ t1.outlen = t2.outlen ∧
      t1.outbuf.readRange 0 t1.outlen.toNat = t2.outbuf.readRange 0 t2.outlen.toNat

/-- R215: the outcome of `decode` is the first row of the table whose condition holds; on success the identifier is the
little-endian value of the first eight bytes and the payload has 2 * PAYLEN - 4 characters. -/
def Obligations.OutcomeTable : Prop :=
  ∀ pkt key : List Byte,
    let text := (pkt.drop 2).take (pkt.length - 4)
    let pay := ds false (((hexdec text).getD []).drop 8)
    (¬ GoodMarkers pkt → decodePacket pkt key = .error .frame) ∧
    (GoodMarkers pkt →
      (pkt.length % 2 = 1 ∨ (∃ c ∈ text, hexval c = none) → decodePacket pkt key = .error .encoding) ∧
      (pkt.length % 2 = 0 ∧ (∀ c ∈ text, hexval c ≠ none) →
        (pkt.length < 20 → decodePacket pkt key = .error .frame) ∧
        (20 ≤ pkt.length → pay = [] → decodePacket pkt key = .error .checksum) ∧
        (20 ≤ pkt.length → pay ≠ [] → key.length ≠ 16 → decodePacket pkt key = .error .key) ∧
        (20 ≤ pkt.length → pay ≠ [] → key.length = 16 → pay.length % 8 ≠ 0 →
          decodePacket pkt key = .error .block) ∧
        (20 ≤ pkt.length → pay ≠ [] → key.length = 16 → pay.length % 8 = 0 →
          ∃ f, decodePacket pkt key = .ok f ∧ f.payload.length = 2 * pay.length - 4 ∧
            f.identifier.toNat = memRead ((hexdec text).getD []) 0 8)))

/-- R212: the shape of a success. -/
def Obligations.SuccessShape : Prop :=
  ∀ (pkt key : List Byte) (f : DecodedFrame), decodePacket pkt key = .ok f →
    pkt.length % 2 = 0 ∧ 36 ≤ pkt.length ∧
    ∃ (raw pay pln : List Byte) (n : Nat),
      hexdec ((pkt.drop 2).take (pkt.length - 4)) = some raw ∧ pay = ds false (raw.drop 8) ∧ 1 ≤ n ∧
      pay.length = 8 * n ∧ pln = decryptAll key pay ∧ pln.length = 8 * n ∧
      f.payload.length = 16 * n - 4 ∧ f.payload = hexenc (pln.take (8 * n - 2)) ∧
      ∀ c ∈ f.payload, (0x30 ≤ c.toNat ∧ c.toNat ≤ 0x39) ∨ (0x61 ≤ c.toNat ∧ c.toNat ≤ 0x66)

/-- R214: a packet that decodes under one 16-byte key decodes under every 16-byte key, with the same identifier and
payload length: nothing detects a wrong key. -/
def Obligations.WrongKeyIsNotDetected : Prop :=
  ∀ (pkt key key' : List Byte) (f : DecodedFrame), key.length = 16 → key'.length = 16 →
    decodePacket pkt key = .ok f →
    ∃ f', decodePacket pkt key' = .ok f' ∧ f'.identifier = f.identifier ∧ f'.payload.length = f.payload.length
end

