-- ==== Sys2Proof/Laws/Data.lean ====
section
/-! SUPPORT. The small laws of hex digits, little-endian fields, chunks and the block routine's shape. -/

namespace Sys2Proof.Laws

open Sys2Proof Sys2Proof.Machine

/-- Every nibble's character has the nibble's value. -/
@[simp] theorem hexval_hexchar (n : Nibble) : hexval (hexchar n) = some n := by revert n; decide

/-- HEXENC's characters are lowercase digits. -/
theorem hexchar_range (n : Nibble) : (0x30 ≤ (hexchar n).toNat ∧ (hexchar n).toNat ≤ 0x39) ∨
    (0x61 ≤ (hexchar n).toNat ∧ (hexchar n).toNat ≤ 0x66) := by revert n; decide

/-- A digit's value, written back, is the digit in lower case. -/
theorem hexchar_of_hexval {c : Byte} {v : Nibble} (h : hexval c = some v) : hexchar v = lower c := by
  have all : ∀ c : Byte, (hexval c).all (fun v => hexchar v == lower c) = true := by decide
  have := all c
  rw [h] at this
  simpa using this

/-- The value of a pair of nibbles. -/
theorem pairByte_toNat (high low : Nibble) : (pairByte high low).toNat = 16 * high.toNat + low.toNat := by
  simp only [pairByte, BitVec.toNat_ofNat]; omega

/-- A byte is the pair of its nibbles. -/
@[simp] theorem pairByte_nibbles (b : Byte) : pairByte (highNibble b) (lowNibble b) = b := by revert b; decide

/-- The start marker's characters. -/
theorem isSof_eq (a b : Byte) : isSof a b = (lower a == 0x63#8 && b == 0x30#8) := rfl

/-- The end marker's characters. -/
theorem isEofm_eq (a b : Byte) : isEofm a b = (lower a == 0x63#8 && b == 0x32#8) := rfl

@[simp] theorem leBytes_length (n v : Nat) : (leBytes n v).length = n := by
  induction n generalizing v with
  | zero => rfl
  | succ n ih => simp [leBytes, ih]

@[simp] theorem blockStore_length (c : Cip) : (blockStore c).length = 8 := by simp [blockStore]

@[simp] theorem chunks_nil : chunks [] = [] := rfl

/-- Any two bounds that are large enough cut alike. -/
theorem chunksUpTo_eq {bs : List Byte} {m n : Nat} (hm : bs.length ≤ m) (hn : bs.length ≤ n) :
    chunksUpTo m bs = chunksUpTo n bs := by
  induction m generalizing n bs with
  | zero => cases bs <;> cases n <;> first | rfl | (simp at hm)
  | succ m ih =>
    cases bs with
    | nil => cases n <;> rfl
    | cons b bs =>
      cases n with
      | zero => simp at hn
      | succ n =>
        simp only [chunksUpTo]
        rw [ih (n := n)]
        · simp only [List.length_drop, List.length_cons, Config.blkLen] at hm ⊢; omega
        · simp only [List.length_drop, List.length_cons, Config.blkLen] at hn ⊢; omega

/-- The first chunk and the rest. -/
theorem chunks_cons {bs : List Byte} (h : bs ≠ []) : chunks bs = bs.take 8 :: chunks (bs.drop 8) := by
  cases bs with
  | nil => exact absurd rfl h
  | cons b bs =>
    unfold chunks
    simp only [List.length_cons, chunksUpTo, Config.blkLen]
    rw [chunksUpTo_eq (n := ((b :: bs).drop 8).length)]
    · simp only [List.length_drop, List.length_cons]; omega
    · exact Nat.le_refl _

end Sys2Proof.Laws
end

