-- ==== Sys2Proof/Laws/Memory.lean ====
section
/-! SUPPORT. Laws of the host-visible buffers: read after write, ranges, and that every memory operation keeps the
canonical form and the capacity. -/

namespace Sys2Proof.Laws

open Sys2Proof Sys2Proof.Machine

@[simp] theorem read_write_self (m : Memory) (i : Nat) (v : Byte) : (m.write i v).read i = some v := by
  induction m with
  | nil => simp [Memory.write, Memory.read]
  | cons c m ih =>
    obtain ⟨a, b⟩ := c
    simp only [Memory.write]
    split
    · simp [Memory.read]
    · split
      · simp [Memory.read]
      · rename_i h; simp [Memory.read, Ne.symm h, ih]

@[simp] theorem read_write_other (m : Memory) {i j : Nat} (v : Byte) (h : j ≠ i) : (m.write i v).read j = m.read j := by
  induction m with
  | nil => simp [Memory.write, Memory.read, Ne.symm h]
  | cons c m ih =>
    obtain ⟨a, b⟩ := c
    simp only [Memory.write]
    split
    · simp [Memory.read, Ne.symm h]
    · split
      · rename_i hia; subst hia; simp [Memory.read, Ne.symm h]
      · simp only [Memory.read]; split <;> simp_all

/-- The value of one cell after a write, in one equation. -/
theorem read_write (m : Memory) (i j : Nat) (v : Byte) :
    (m.write i v).read j = if j = i then some v else m.read j := by
  split
  · rename_i h; subst h; simp
  · rename_i h; simp [h]

/-- The value of one cell after a range was written. -/
theorem read_writeRange (m : Memory) (i j : Nat) (bs : List Byte) :
    (m.writeRange i bs).read j = if i ≤ j ∧ j < i + bs.length then bs[j - i]? else m.read j := by
  induction bs generalizing m i with
  | nil => simp only [Memory.writeRange, List.length_nil, Nat.add_zero]; rw [if_neg (by omega)]
  | cons b bs ih =>
    simp only [Memory.writeRange, ih, read_write, List.length_cons]
    by_cases hj : j = i
    · subst hj; simp
    · by_cases hr : i ≤ j ∧ j < i + (bs.length + 1)
      · rw [if_pos (by omega), if_pos hr]
        obtain ⟨d, rfl⟩ : ∃ d, j = i + 1 + d := ⟨j - (i + 1), by omega⟩
        have h1 : i + 1 + d - (i + 1) = d := by omega
        have h2 : i + 1 + d - i = d + 1 := by omega
        rw [h1, h2, List.getElem?_cons_succ]
      · rw [if_neg (by omega), if_neg hr, if_neg hj]

/-- A range that can be read has as many bytes as asked for. -/
theorem readRange_length {m : Memory} {i n : Nat} {bs : List Byte} (h : m.readRange i n = some bs) :
    bs.length = n := by
  induction n generalizing i bs with
  | zero => simp only [Memory.readRange, Option.some.injEq] at h; subst h; rfl
  | succ n ih =>
    simp only [Memory.readRange] at h
    split at h
    · rename_i b bs' _ h2; cases h; simp [ih h2]
    · cases h

/-- A range reads as a byte list exactly when each cell reads as its byte. -/
theorem readRange_eq_some {m : Memory} {i n : Nat} {bs : List Byte} :
    m.readRange i n = some bs ↔ bs.length = n ∧ ∀ j, j < n → m.read (i + j) = bs[j]? := by
  induction n generalizing i bs with
  | zero =>
    simp only [Memory.readRange, Option.some.injEq, Nat.not_lt_zero, false_imp_iff, implies_true, and_true]
    constructor
    · rintro rfl; rfl
    · intro h; exact (List.eq_nil_of_length_eq_zero h).symm
  | succ n ih =>
    simp only [Memory.readRange]
    cases hb : m.read i with
    | none =>
      simp only [reduceCtorEq, false_iff, not_and]
      intro hl hr
      have := hr 0 (by omega)
      rw [Nat.add_zero, hb] at this
      cases bs with
      | nil => simp at hl
      | cons b bs => simp at this
    | some b =>
      cases bs with
      | nil =>
        cases h2 : m.readRange (i + 1) n <;> simp
      | cons c cs =>
        have key : (m.readRange (i + 1) n = some cs ∧ b = c) ↔
            ((c :: cs).length = n + 1 ∧ ∀ j, j < n + 1 → m.read (i + j) = (c :: cs)[j]?) := by
          rw [ih]
          constructor
          · rintro ⟨⟨hl, hr⟩, rfl⟩
            refine ⟨by simp [hl], fun j hj => ?_⟩
            cases j with
            | zero => simpa using hb
            | succ j => rw [List.getElem?_cons_succ, ← hr j (by omega)]; congr 1; omega
          · rintro ⟨hl, hr⟩
            refine ⟨⟨by simpa using hl, fun j hj => ?_⟩, ?_⟩
            · have := hr (j + 1) (by omega)
              rw [List.getElem?_cons_succ] at this
              rw [← this]; congr 1; omega
            · have := hr 0 (by omega)
              rw [Nat.add_zero, hb] at this
              simpa using this
        rw [← key]
        cases h2 : m.readRange (i + 1) n with
        | none => simp
        | some ds => simp [and_comm]

/-- A readable range reads in parts. -/
theorem readRange_part {m : Memory} {n : Nat} {bs : List Byte} (h : m.readRange 0 n = some bs) {i k : Nat}
    (hik : i + k ≤ n) : m.readRange i k = some ((bs.drop i).take k) := by
  obtain ⟨hl, hr⟩ := readRange_eq_some.1 h
  refine readRange_eq_some.2 ⟨by simp; omega, fun j hj => ?_⟩
  have := hr (i + j) (by omega)
  rw [Nat.zero_add] at this
  rw [this, List.getElem?_take, if_pos hj, List.getElem?_drop]

/-- What was written as a range reads back. -/
theorem readRange_writeRange (m : Memory) (i : Nat) (bs : List Byte) :
    (m.writeRange i bs).readRange i bs.length = some bs := by
  refine readRange_eq_some.2 ⟨rfl, fun j hj => ?_⟩
  rw [read_writeRange, if_pos (by omega)]
  congr 1; omega

theorem risingFrom_mono {m : Memory} {i j : Nat} (hij : i ≤ j) (h : Memory.risingFrom j m = true) :
    Memory.risingFrom i m = true := by
  cases m with
  | nil => rfl
  | cons c m =>
    simp only [Memory.risingFrom, Bool.and_eq_true, decide_eq_true_eq] at h ⊢
    exact ⟨by omega, h.2⟩

theorem write_risingFrom {m : Memory} {k i : Nat} (v : Byte) (hk : k ≤ i) (h : Memory.risingFrom k m = true) :
    Memory.risingFrom k (m.write i v) = true := by
  induction m generalizing k with
  | nil => simp [Memory.write, Memory.risingFrom, hk]
  | cons c m ih =>
    obtain ⟨a, b⟩ := c
    simp only [Memory.risingFrom, Bool.and_eq_true, decide_eq_true_eq] at h
    simp only [Memory.write]
    split
    · simp only [Memory.risingFrom, Bool.and_eq_true, decide_eq_true_eq]
      exact ⟨hk, by omega, h.2⟩
    · split
      · rename_i _ hia; subst hia
        simp only [Memory.risingFrom, Bool.and_eq_true, decide_eq_true_eq]
        exact ⟨hk, h.2⟩
      · simp only [Memory.risingFrom, Bool.and_eq_true, decide_eq_true_eq]
        exact ⟨h.1, ih (by omega) h.2⟩

/-- A write keeps the canonical form. -/
theorem write_wf {m : Memory} (i : Nat) (v : Byte) (h : m.wf = true) : (m.write i v).wf = true :=
  write_risingFrom v (Nat.zero_le i) h

/-- Writing a range keeps the canonical form. -/
theorem writeRange_wf {m : Memory} (i : Nat) (bs : List Byte) (h : m.wf = true) : (m.writeRange i bs).wf = true := by
  induction bs generalizing m i with
  | nil => exact h
  | cons b bs ih => exact ih (i + 1) (write_wf i b h)

/-- A write below the capacity stays below it. -/
theorem write_below {cap : Nat} {m : Memory} {i : Nat} (v : Byte) (hi : i < cap) (h : m.below cap = true) :
    (m.write i v).below cap = true := by
  induction m with
  | nil => simp [Memory.write, Memory.below, hi]
  | cons c m ih =>
    obtain ⟨a, b⟩ := c
    simp only [Memory.below, List.all_cons, Bool.and_eq_true, decide_eq_true_eq] at h ih
    simp only [Memory.write]
    split
    · simp [Memory.below, hi, h.1]; simpa using h.2
    · split
      · simp [Memory.below, hi]; simpa using h.2
      · simp only [Memory.below, List.all_cons, Bool.and_eq_true, decide_eq_true_eq]
        exact ⟨h.1, ih h.2⟩

/-- Writing a range that ends below the capacity stays below it. -/
theorem writeRange_below {cap : Nat} {m : Memory} {i : Nat} {bs : List Byte} (hi : i + bs.length ≤ cap)
    (h : m.below cap = true) : (m.writeRange i bs).below cap = true := by
  induction bs generalizing m i with
  | nil => exact h
  | cons b bs ih =>
    simp only [List.length_cons] at hi
    exact ih (by omega) (write_below b (by omega) h)

/-- The reset memories have the canonical form. -/
theorem reset_memories_wf :
    State.reset.inbuf.wf = true ∧ State.reset.keybuf.wf = true ∧ State.reset.outbuf.wf = true := ⟨rfl, rfl, rfl⟩

end Sys2Proof.Laws
end

