-- ==== Sys2Proof/Laws/State.lean ====
section
/-! SUPPORT. One lemma per field per named update of State, and per part of a stage buffer per operation, all true by
rfl: later proofs need not unfold a record update. -/

namespace Sys2Proof.Laws

open Sys2Proof Sys2Proof.Machine

variable (s : State)

/-! ## Stage buffers -/

@[simp] theorem clear_live (b : Buffer) : b.clear.live = [] := rfl
@[simp] theorem clear_stale (b : Buffer) : b.clear.stale = b.live ++ b.stale := rfl
@[simp] theorem append_live (b : Buffer) (xs : List Byte) : (b.append xs).live = b.live ++ xs := rfl
@[simp] theorem emit_live (b : Buffer) (v : Byte) : (b.emit v).live = b.live ++ [v] := rfl
@[simp] theorem load_live (b : Buffer) (xs : List Byte) : (b.load xs).live = xs := rfl
@[simp] theorem clear_len (b : Buffer) : b.clear.len = 0 := rfl
@[simp] theorem load_len (b : Buffer) (xs : List Byte) : (b.load xs).len = xs.length := rfl
@[simp] theorem empty_live : Buffer.empty.live = [] := rfl
@[simp] theorem empty_len : Buffer.empty.len = 0 := rfl

/-! ## `raise` -/

@[simp] theorem raise_busy (e : ErrorKind) : (s.raise e).busy = false := rfl
@[simp] theorem raise_done (e : ErrorKind) : (s.raise e).done = true := rfl
@[simp] theorem raise_err (e : ErrorKind) : (s.raise e).err = errorCode e := rfl
@[simp] theorem raise_inlen (e : ErrorKind) : (s.raise e).inlen = s.inlen := rfl
@[simp] theorem raise_keylen (e : ErrorKind) : (s.raise e).keylen = s.keylen := rfl
@[simp] theorem raise_outlen (e : ErrorKind) : (s.raise e).outlen = 0#32 := rfl
@[simp] theorem raise_ident (e : ErrorKind) : (s.raise e).ident = 0#64 := rfl
@[simp] theorem raise_inbuf (e : ErrorKind) : (s.raise e).inbuf = s.inbuf := rfl
@[simp] theorem raise_keybuf (e : ErrorKind) : (s.raise e).keybuf = s.keybuf := rfl
@[simp] theorem raise_outbuf (e : ErrorKind) : (s.raise e).outbuf = s.outbuf := rfl
@[simp] theorem raise_stage (e : ErrorKind) : (s.raise e).stage = 0#3 := rfl
@[simp] theorem raise_cur (e : ErrorKind) : (s.raise e).cur = s.cur := rfl
@[simp] theorem raise_esc (e : ErrorKind) : (s.raise e).esc = s.esc := rfl
@[simp] theorem raise_txt (e : ErrorKind) : (s.raise e).txt = s.txt := rfl
@[simp] theorem raise_raw (e : ErrorKind) : (s.raise e).raw = s.raw := rfl
@[simp] theorem raise_stf (e : ErrorKind) : (s.raise e).stf = s.stf := rfl
@[simp] theorem raise_pay (e : ErrorKind) : (s.raise e).pay = s.pay := rfl
@[simp] theorem raise_pln (e : ErrorKind) : (s.raise e).pln = s.pln := rfl
@[simp] theorem raise_hex (e : ErrorKind) : (s.raise e).hex = s.hex := rfl
@[simp] theorem raise_idr (e : ErrorKind) : (s.raise e).idr = s.idr := rfl
@[simp] theorem raise_k (e : ErrorKind) : (s.raise e).k = s.k := rfl
@[simp] theorem raise_cip (e : ErrorKind) : (s.raise e).cip = s.cip := rfl
@[simp] theorem raise_nib (e : ErrorKind) : (s.raise e).nib = s.nib := rfl
@[simp] theorem raise_rdata (e : ErrorKind) : (s.raise e).rdata = s.rdata := rfl
@[simp] theorem raise_free (e : ErrorKind) : (s.raise e).free = s.free := rfl
@[simp] theorem raise_agenda (e : ErrorKind) : (s.raise e).agenda = s.agenda := rfl
@[simp] theorem raise_inCap (e : ErrorKind) : (s.raise e).inCap = s.inCap := rfl

/-! ## `accept` -/

@[simp] theorem accept_busy : s.accept.busy = true := rfl
@[simp] theorem accept_done : s.accept.done = false := rfl
@[simp] theorem accept_err : s.accept.err = 0#3 := rfl
@[simp] theorem accept_inlen : s.accept.inlen = s.inlen := rfl
@[simp] theorem accept_keylen : s.accept.keylen = s.keylen := rfl
@[simp] theorem accept_outlen : s.accept.outlen = 0#32 := rfl
@[simp] theorem accept_ident : s.accept.ident = 0#64 := rfl
@[simp] theorem accept_inbuf : s.accept.inbuf = s.inbuf := rfl
@[simp] theorem accept_keybuf : s.accept.keybuf = s.keybuf := rfl
@[simp] theorem accept_outbuf : s.accept.outbuf = s.outbuf := rfl
@[simp] theorem accept_stage : s.accept.stage = 1#3 := rfl
@[simp] theorem accept_cur : s.accept.cur = 0 := rfl
@[simp] theorem accept_esc : s.accept.esc = s.esc := rfl
@[simp] theorem accept_txt : s.accept.txt = s.txt.clear := rfl
@[simp] theorem accept_raw : s.accept.raw = s.raw.clear := rfl
@[simp] theorem accept_stf : s.accept.stf = s.stf.clear := rfl
@[simp] theorem accept_pay : s.accept.pay = s.pay.clear := rfl
@[simp] theorem accept_pln : s.accept.pln = s.pln.clear := rfl
@[simp] theorem accept_hex : s.accept.hex = s.hex.clear := rfl
@[simp] theorem accept_idr : s.accept.idr = s.idr := rfl
@[simp] theorem accept_k : s.accept.k = s.k := rfl
@[simp] theorem accept_cip : s.accept.cip = s.cip := rfl
@[simp] theorem accept_nib : s.accept.nib = s.nib := rfl
@[simp] theorem accept_rdata : s.accept.rdata = s.rdata := rfl
@[simp] theorem accept_free : s.accept.free = s.free := rfl
@[simp] theorem accept_agenda : s.accept.agenda = s.agenda := rfl
@[simp] theorem accept_inCap : s.accept.inCap = s.inCap := rfl

/-! ## `enter` -/

@[simp] theorem enter_busy : s.enter.busy = s.busy := rfl
@[simp] theorem enter_done : s.enter.done = s.done := rfl
@[simp] theorem enter_err : s.enter.err = s.err := rfl
@[simp] theorem enter_inlen : s.enter.inlen = s.inlen := rfl
@[simp] theorem enter_keylen : s.enter.keylen = s.keylen := rfl
@[simp] theorem enter_outlen : s.enter.outlen = s.outlen := rfl
@[simp] theorem enter_ident : s.enter.ident = s.ident := rfl
@[simp] theorem enter_inbuf : s.enter.inbuf = s.inbuf := rfl
@[simp] theorem enter_keybuf : s.enter.keybuf = s.keybuf := rfl
@[simp] theorem enter_outbuf : s.enter.outbuf = s.outbuf := rfl
@[simp] theorem enter_stage : s.enter.stage = s.stage := rfl
@[simp] theorem enter_cur : s.enter.cur = 0 := rfl
@[simp] theorem enter_esc : s.enter.esc = s.esc := rfl
@[simp] theorem enter_txt : s.enter.txt = s.txt := rfl
@[simp] theorem enter_raw : s.enter.raw = s.raw := rfl
@[simp] theorem enter_stf : s.enter.stf = s.stf := rfl
@[simp] theorem enter_pay : s.enter.pay = s.pay := rfl
@[simp] theorem enter_pln : s.enter.pln = s.pln := rfl
@[simp] theorem enter_hex : s.enter.hex = s.hex := rfl
@[simp] theorem enter_idr : s.enter.idr = s.idr := rfl
@[simp] theorem enter_k : s.enter.k = s.k := rfl
@[simp] theorem enter_cip : s.enter.cip = s.cip := rfl
@[simp] theorem enter_nib : s.enter.nib = s.nib := rfl
@[simp] theorem enter_rdata : s.enter.rdata = s.rdata := rfl
@[simp] theorem enter_free : s.enter.free = s.free := rfl
@[simp] theorem enter_agenda : s.enter.agenda = s.agenda := rfl
@[simp] theorem enter_inCap : s.enter.inCap = s.inCap := rfl

/-! ## `goto` -/

@[simp] theorem goto_busy (code : BitVec 3) : (s.goto code).busy = s.busy := rfl
@[simp] theorem goto_done (code : BitVec 3) : (s.goto code).done = s.done := rfl
@[simp] theorem goto_err (code : BitVec 3) : (s.goto code).err = s.err := rfl
@[simp] theorem goto_inlen (code : BitVec 3) : (s.goto code).inlen = s.inlen := rfl
@[simp] theorem goto_keylen (code : BitVec 3) : (s.goto code).keylen = s.keylen := rfl
@[simp] theorem goto_outlen (code : BitVec 3) : (s.goto code).outlen = s.outlen := rfl
@[simp] theorem goto_ident (code : BitVec 3) : (s.goto code).ident = s.ident := rfl
@[simp] theorem goto_inbuf (code : BitVec 3) : (s.goto code).inbuf = s.inbuf := rfl
@[simp] theorem goto_keybuf (code : BitVec 3) : (s.goto code).keybuf = s.keybuf := rfl
@[simp] theorem goto_outbuf (code : BitVec 3) : (s.goto code).outbuf = s.outbuf := rfl
@[simp] theorem goto_stage (code : BitVec 3) : (s.goto code).stage = code := rfl
@[simp] theorem goto_cur (code : BitVec 3) : (s.goto code).cur = 0 := rfl
@[simp] theorem goto_esc (code : BitVec 3) : (s.goto code).esc = s.esc := rfl
@[simp] theorem goto_txt (code : BitVec 3) : (s.goto code).txt = s.txt := rfl
@[simp] theorem goto_raw (code : BitVec 3) : (s.goto code).raw = s.raw := rfl
@[simp] theorem goto_stf (code : BitVec 3) : (s.goto code).stf = s.stf := rfl
@[simp] theorem goto_pay (code : BitVec 3) : (s.goto code).pay = s.pay := rfl
@[simp] theorem goto_pln (code : BitVec 3) : (s.goto code).pln = s.pln := rfl
@[simp] theorem goto_hex (code : BitVec 3) : (s.goto code).hex = s.hex := rfl
@[simp] theorem goto_idr (code : BitVec 3) : (s.goto code).idr = s.idr := rfl
@[simp] theorem goto_k (code : BitVec 3) : (s.goto code).k = s.k := rfl
@[simp] theorem goto_cip (code : BitVec 3) : (s.goto code).cip = s.cip := rfl
@[simp] theorem goto_nib (code : BitVec 3) : (s.goto code).nib = s.nib := rfl
@[simp] theorem goto_rdata (code : BitVec 3) : (s.goto code).rdata = s.rdata := rfl
@[simp] theorem goto_free (code : BitVec 3) : (s.goto code).free = s.free := rfl
@[simp] theorem goto_agenda (code : BitVec 3) : (s.goto code).agenda = s.agenda := rfl
@[simp] theorem goto_inCap (code : BitVec 3) : (s.goto code).inCap = s.inCap := rfl

/-! ## `toReset` -/

@[simp] theorem toReset_busy : s.toReset.busy = State.reset.busy := rfl
@[simp] theorem toReset_done : s.toReset.done = State.reset.done := rfl
@[simp] theorem toReset_err : s.toReset.err = State.reset.err := rfl
@[simp] theorem toReset_inlen : s.toReset.inlen = State.reset.inlen := rfl
@[simp] theorem toReset_keylen : s.toReset.keylen = State.reset.keylen := rfl
@[simp] theorem toReset_outlen : s.toReset.outlen = State.reset.outlen := rfl
@[simp] theorem toReset_ident : s.toReset.ident = State.reset.ident := rfl
@[simp] theorem toReset_inbuf : s.toReset.inbuf = State.reset.inbuf := rfl
@[simp] theorem toReset_keybuf : s.toReset.keybuf = State.reset.keybuf := rfl
@[simp] theorem toReset_outbuf : s.toReset.outbuf = State.reset.outbuf := rfl
@[simp] theorem toReset_stage : s.toReset.stage = State.reset.stage := rfl
@[simp] theorem toReset_cur : s.toReset.cur = State.reset.cur := rfl
@[simp] theorem toReset_esc : s.toReset.esc = State.reset.esc := rfl
@[simp] theorem toReset_txt : s.toReset.txt = State.reset.txt := rfl
@[simp] theorem toReset_raw : s.toReset.raw = State.reset.raw := rfl
@[simp] theorem toReset_stf : s.toReset.stf = State.reset.stf := rfl
@[simp] theorem toReset_pay : s.toReset.pay = State.reset.pay := rfl
@[simp] theorem toReset_pln : s.toReset.pln = State.reset.pln := rfl
@[simp] theorem toReset_hex : s.toReset.hex = State.reset.hex := rfl
@[simp] theorem toReset_idr : s.toReset.idr = State.reset.idr := rfl
@[simp] theorem toReset_k : s.toReset.k = State.reset.k := rfl
@[simp] theorem toReset_cip : s.toReset.cip = State.reset.cip := rfl
@[simp] theorem toReset_nib : s.toReset.nib = State.reset.nib := rfl
@[simp] theorem toReset_rdata : s.toReset.rdata = s.rdata := rfl
@[simp] theorem toReset_free : s.toReset.free = s.free := rfl
@[simp] theorem toReset_agenda : s.toReset.agenda = s.agenda := rfl
@[simp] theorem toReset_inCap : s.toReset.inCap = s.inCap := rfl

/-! ## `inStage` -/

@[simp] theorem inStage_busy (code : BitVec 3) : (s.inStage code).busy = true := rfl
@[simp] theorem inStage_done (code : BitVec 3) : (s.inStage code).done = s.done := rfl
@[simp] theorem inStage_err (code : BitVec 3) : (s.inStage code).err = s.err := rfl
@[simp] theorem inStage_inlen (code : BitVec 3) : (s.inStage code).inlen = s.inlen := rfl
@[simp] theorem inStage_keylen (code : BitVec 3) : (s.inStage code).keylen = s.keylen := rfl
@[simp] theorem inStage_outlen (code : BitVec 3) : (s.inStage code).outlen = s.outlen := rfl
@[simp] theorem inStage_ident (code : BitVec 3) : (s.inStage code).ident = s.ident := rfl
@[simp] theorem inStage_inbuf (code : BitVec 3) : (s.inStage code).inbuf = s.inbuf := rfl
@[simp] theorem inStage_keybuf (code : BitVec 3) : (s.inStage code).keybuf = s.keybuf := rfl
@[simp] theorem inStage_outbuf (code : BitVec 3) : (s.inStage code).outbuf = s.outbuf := rfl
@[simp] theorem inStage_stage (code : BitVec 3) : (s.inStage code).stage = code := rfl
@[simp] theorem inStage_cur (code : BitVec 3) : (s.inStage code).cur = 0 := rfl
@[simp] theorem inStage_esc (code : BitVec 3) : (s.inStage code).esc = s.esc := rfl
@[simp] theorem inStage_txt (code : BitVec 3) : (s.inStage code).txt = s.txt := rfl
@[simp] theorem inStage_raw (code : BitVec 3) : (s.inStage code).raw = s.raw := rfl
@[simp] theorem inStage_stf (code : BitVec 3) : (s.inStage code).stf = s.stf := rfl
@[simp] theorem inStage_pay (code : BitVec 3) : (s.inStage code).pay = s.pay := rfl
@[simp] theorem inStage_pln (code : BitVec 3) : (s.inStage code).pln = s.pln := rfl
@[simp] theorem inStage_hex (code : BitVec 3) : (s.inStage code).hex = s.hex := rfl
@[simp] theorem inStage_idr (code : BitVec 3) : (s.inStage code).idr = s.idr := rfl
@[simp] theorem inStage_k (code : BitVec 3) : (s.inStage code).k = s.k := rfl
@[simp] theorem inStage_cip (code : BitVec 3) : (s.inStage code).cip = s.cip := rfl
@[simp] theorem inStage_nib (code : BitVec 3) : (s.inStage code).nib = s.nib := rfl
@[simp] theorem inStage_rdata (code : BitVec 3) : (s.inStage code).rdata = s.rdata := rfl
@[simp] theorem inStage_free (code : BitVec 3) : (s.inStage code).free = s.free := rfl
@[simp] theorem inStage_agenda (code : BitVec 3) : (s.inStage code).agenda = s.agenda := rfl
@[simp] theorem inStage_inCap (code : BitVec 3) : (s.inStage code).inCap = s.inCap := rfl

/-! ## `takeLit` -/

@[simp] theorem takeLit_busy (n : Byte) : (s.takeLit n).busy = s.busy := rfl
@[simp] theorem takeLit_done (n : Byte) : (s.takeLit n).done = s.done := rfl
@[simp] theorem takeLit_err (n : Byte) : (s.takeLit n).err = s.err := rfl
@[simp] theorem takeLit_inlen (n : Byte) : (s.takeLit n).inlen = s.inlen := rfl
@[simp] theorem takeLit_keylen (n : Byte) : (s.takeLit n).keylen = s.keylen := rfl
@[simp] theorem takeLit_outlen (n : Byte) : (s.takeLit n).outlen = s.outlen := rfl
@[simp] theorem takeLit_ident (n : Byte) : (s.takeLit n).ident = s.ident := rfl
@[simp] theorem takeLit_inbuf (n : Byte) : (s.takeLit n).inbuf = s.inbuf := rfl
@[simp] theorem takeLit_keybuf (n : Byte) : (s.takeLit n).keybuf = s.keybuf := rfl
@[simp] theorem takeLit_outbuf (n : Byte) : (s.takeLit n).outbuf = s.outbuf := rfl
@[simp] theorem takeLit_stage (n : Byte) : (s.takeLit n).stage = s.stage := rfl
@[simp] theorem takeLit_cur (n : Byte) : (s.takeLit n).cur = s.cur + 1 := rfl
@[simp] theorem takeLit_esc (n : Byte) : (s.takeLit n).esc = false := rfl
@[simp] theorem takeLit_txt (n : Byte) : (s.takeLit n).txt = s.txt := rfl
@[simp] theorem takeLit_raw (n : Byte) : (s.takeLit n).raw = s.raw := rfl
@[simp] theorem takeLit_stf (n : Byte) : (s.takeLit n).stf = s.stf := rfl
@[simp] theorem takeLit_pay (n : Byte) : (s.takeLit n).pay = s.pay.emit n := rfl
@[simp] theorem takeLit_pln (n : Byte) : (s.takeLit n).pln = s.pln := rfl
@[simp] theorem takeLit_hex (n : Byte) : (s.takeLit n).hex = s.hex := rfl
@[simp] theorem takeLit_idr (n : Byte) : (s.takeLit n).idr = s.idr := rfl
@[simp] theorem takeLit_k (n : Byte) : (s.takeLit n).k = s.k := rfl
@[simp] theorem takeLit_cip (n : Byte) : (s.takeLit n).cip = s.cip := rfl
@[simp] theorem takeLit_nib (n : Byte) : (s.takeLit n).nib = s.nib := rfl
@[simp] theorem takeLit_rdata (n : Byte) : (s.takeLit n).rdata = s.rdata := rfl
@[simp] theorem takeLit_free (n : Byte) : (s.takeLit n).free = s.free := rfl
@[simp] theorem takeLit_agenda (n : Byte) : (s.takeLit n).agenda = s.agenda := rfl
@[simp] theorem takeLit_inCap (n : Byte) : (s.takeLit n).inCap = s.inCap := rfl

/-! ## `takeOpen` -/

@[simp] theorem takeOpen_busy : s.takeOpen.busy = s.busy := rfl
@[simp] theorem takeOpen_done : s.takeOpen.done = s.done := rfl
@[simp] theorem takeOpen_err : s.takeOpen.err = s.err := rfl
@[simp] theorem takeOpen_inlen : s.takeOpen.inlen = s.inlen := rfl
@[simp] theorem takeOpen_keylen : s.takeOpen.keylen = s.keylen := rfl
@[simp] theorem takeOpen_outlen : s.takeOpen.outlen = s.outlen := rfl
@[simp] theorem takeOpen_ident : s.takeOpen.ident = s.ident := rfl
@[simp] theorem takeOpen_inbuf : s.takeOpen.inbuf = s.inbuf := rfl
@[simp] theorem takeOpen_keybuf : s.takeOpen.keybuf = s.keybuf := rfl
@[simp] theorem takeOpen_outbuf : s.takeOpen.outbuf = s.outbuf := rfl
@[simp] theorem takeOpen_stage : s.takeOpen.stage = s.stage := rfl
@[simp] theorem takeOpen_cur : s.takeOpen.cur = s.cur + 1 := rfl
@[simp] theorem takeOpen_esc : s.takeOpen.esc = true := rfl
@[simp] theorem takeOpen_txt : s.takeOpen.txt = s.txt := rfl
@[simp] theorem takeOpen_raw : s.takeOpen.raw = s.raw := rfl
@[simp] theorem takeOpen_stf : s.takeOpen.stf = s.stf := rfl
@[simp] theorem takeOpen_pay : s.takeOpen.pay = s.pay := rfl
@[simp] theorem takeOpen_pln : s.takeOpen.pln = s.pln := rfl
@[simp] theorem takeOpen_hex : s.takeOpen.hex = s.hex := rfl
@[simp] theorem takeOpen_idr : s.takeOpen.idr = s.idr := rfl
@[simp] theorem takeOpen_k : s.takeOpen.k = s.k := rfl
@[simp] theorem takeOpen_cip : s.takeOpen.cip = s.cip := rfl
@[simp] theorem takeOpen_nib : s.takeOpen.nib = s.nib := rfl
@[simp] theorem takeOpen_rdata : s.takeOpen.rdata = s.rdata := rfl
@[simp] theorem takeOpen_free : s.takeOpen.free = s.free := rfl
@[simp] theorem takeOpen_agenda : s.takeOpen.agenda = s.agenda := rfl
@[simp] theorem takeOpen_inCap : s.takeOpen.inCap = s.inCap := rfl

/-! ## `takeSelf` -/

@[simp] theorem takeSelf_busy : s.takeSelf.busy = s.busy := rfl
@[simp] theorem takeSelf_done : s.takeSelf.done = s.done := rfl
@[simp] theorem takeSelf_err : s.takeSelf.err = s.err := rfl
@[simp] theorem takeSelf_inlen : s.takeSelf.inlen = s.inlen := rfl
@[simp] theorem takeSelf_keylen : s.takeSelf.keylen = s.keylen := rfl
@[simp] theorem takeSelf_outlen : s.takeSelf.outlen = s.outlen := rfl
@[simp] theorem takeSelf_ident : s.takeSelf.ident = s.ident := rfl
@[simp] theorem takeSelf_inbuf : s.takeSelf.inbuf = s.inbuf := rfl
@[simp] theorem takeSelf_keybuf : s.takeSelf.keybuf = s.keybuf := rfl
@[simp] theorem takeSelf_outbuf : s.takeSelf.outbuf = s.outbuf := rfl
@[simp] theorem takeSelf_stage : s.takeSelf.stage = s.stage := rfl
@[simp] theorem takeSelf_cur : s.takeSelf.cur = s.cur + 1 := rfl
@[simp] theorem takeSelf_esc : s.takeSelf.esc = false := rfl
@[simp] theorem takeSelf_txt : s.takeSelf.txt = s.txt := rfl
@[simp] theorem takeSelf_raw : s.takeSelf.raw = s.raw := rfl
@[simp] theorem takeSelf_stf : s.takeSelf.stf = s.stf := rfl
@[simp] theorem takeSelf_pay : s.takeSelf.pay = s.pay.emit Config.sentinel := rfl
@[simp] theorem takeSelf_pln : s.takeSelf.pln = s.pln := rfl
@[simp] theorem takeSelf_hex : s.takeSelf.hex = s.hex := rfl
@[simp] theorem takeSelf_idr : s.takeSelf.idr = s.idr := rfl
@[simp] theorem takeSelf_k : s.takeSelf.k = s.k := rfl
@[simp] theorem takeSelf_cip : s.takeSelf.cip = s.cip := rfl
@[simp] theorem takeSelf_nib : s.takeSelf.nib = s.nib := rfl
@[simp] theorem takeSelf_rdata : s.takeSelf.rdata = s.rdata := rfl
@[simp] theorem takeSelf_free : s.takeSelf.free = s.free := rfl
@[simp] theorem takeSelf_agenda : s.takeSelf.agenda = s.agenda := rfl
@[simp] theorem takeSelf_inCap : s.takeSelf.inCap = s.inCap := rfl

/-! ## `takeDec` -/

@[simp] theorem takeDec_busy (n : Byte) : (s.takeDec n).busy = s.busy := rfl
@[simp] theorem takeDec_done (n : Byte) : (s.takeDec n).done = s.done := rfl
@[simp] theorem takeDec_err (n : Byte) : (s.takeDec n).err = s.err := rfl
@[simp] theorem takeDec_inlen (n : Byte) : (s.takeDec n).inlen = s.inlen := rfl
@[simp] theorem takeDec_keylen (n : Byte) : (s.takeDec n).keylen = s.keylen := rfl
@[simp] theorem takeDec_outlen (n : Byte) : (s.takeDec n).outlen = s.outlen := rfl
@[simp] theorem takeDec_ident (n : Byte) : (s.takeDec n).ident = s.ident := rfl
@[simp] theorem takeDec_inbuf (n : Byte) : (s.takeDec n).inbuf = s.inbuf := rfl
@[simp] theorem takeDec_keybuf (n : Byte) : (s.takeDec n).keybuf = s.keybuf := rfl
@[simp] theorem takeDec_outbuf (n : Byte) : (s.takeDec n).outbuf = s.outbuf := rfl
@[simp] theorem takeDec_stage (n : Byte) : (s.takeDec n).stage = s.stage := rfl
@[simp] theorem takeDec_cur (n : Byte) : (s.takeDec n).cur = s.cur + 1 := rfl
@[simp] theorem takeDec_esc (n : Byte) : (s.takeDec n).esc = false := rfl
@[simp] theorem takeDec_txt (n : Byte) : (s.takeDec n).txt = s.txt := rfl
@[simp] theorem takeDec_raw (n : Byte) : (s.takeDec n).raw = s.raw := rfl
@[simp] theorem takeDec_stf (n : Byte) : (s.takeDec n).stf = s.stf := rfl
@[simp] theorem takeDec_pay (n : Byte) : (s.takeDec n).pay = s.pay.emit (n - 1#8) := rfl
@[simp] theorem takeDec_pln (n : Byte) : (s.takeDec n).pln = s.pln := rfl
@[simp] theorem takeDec_hex (n : Byte) : (s.takeDec n).hex = s.hex := rfl
@[simp] theorem takeDec_idr (n : Byte) : (s.takeDec n).idr = s.idr := rfl
@[simp] theorem takeDec_k (n : Byte) : (s.takeDec n).k = s.k := rfl
@[simp] theorem takeDec_cip (n : Byte) : (s.takeDec n).cip = s.cip := rfl
@[simp] theorem takeDec_nib (n : Byte) : (s.takeDec n).nib = s.nib := rfl
@[simp] theorem takeDec_rdata (n : Byte) : (s.takeDec n).rdata = s.rdata := rfl
@[simp] theorem takeDec_free (n : Byte) : (s.takeDec n).free = s.free := rfl
@[simp] theorem takeDec_agenda (n : Byte) : (s.takeDec n).agenda = s.agenda := rfl
@[simp] theorem takeDec_inCap (n : Byte) : (s.takeDec n).inCap = s.inCap := rfl

/-! ## `takeChain` -/

@[simp] theorem takeChain_busy : s.takeChain.busy = s.busy := rfl
@[simp] theorem takeChain_done : s.takeChain.done = s.done := rfl
@[simp] theorem takeChain_err : s.takeChain.err = s.err := rfl
@[simp] theorem takeChain_inlen : s.takeChain.inlen = s.inlen := rfl
@[simp] theorem takeChain_keylen : s.takeChain.keylen = s.keylen := rfl
@[simp] theorem takeChain_outlen : s.takeChain.outlen = s.outlen := rfl
@[simp] theorem takeChain_ident : s.takeChain.ident = s.ident := rfl
@[simp] theorem takeChain_inbuf : s.takeChain.inbuf = s.inbuf := rfl
@[simp] theorem takeChain_keybuf : s.takeChain.keybuf = s.keybuf := rfl
@[simp] theorem takeChain_outbuf : s.takeChain.outbuf = s.outbuf := rfl
@[simp] theorem takeChain_stage : s.takeChain.stage = s.stage := rfl
@[simp] theorem takeChain_cur : s.takeChain.cur = s.cur + 1 := rfl
@[simp] theorem takeChain_esc : s.takeChain.esc = true := rfl
@[simp] theorem takeChain_txt : s.takeChain.txt = s.txt := rfl
@[simp] theorem takeChain_raw : s.takeChain.raw = s.raw := rfl
@[simp] theorem takeChain_stf : s.takeChain.stf = s.stf := rfl
@[simp] theorem takeChain_pay : s.takeChain.pay = s.pay := rfl
@[simp] theorem takeChain_pln : s.takeChain.pln = s.pln := rfl
@[simp] theorem takeChain_hex : s.takeChain.hex = s.hex := rfl
@[simp] theorem takeChain_idr : s.takeChain.idr = s.idr := rfl
@[simp] theorem takeChain_k : s.takeChain.k = s.k := rfl
@[simp] theorem takeChain_cip : s.takeChain.cip = s.cip := rfl
@[simp] theorem takeChain_nib : s.takeChain.nib = s.nib := rfl
@[simp] theorem takeChain_rdata : s.takeChain.rdata = s.rdata := rfl
@[simp] theorem takeChain_free : s.takeChain.free = s.free := rfl
@[simp] theorem takeChain_agenda : s.takeChain.agenda = s.agenda := rfl
@[simp] theorem takeChain_inCap : s.takeChain.inCap = s.inCap := rfl

/-! ## `takeEnd` -/

@[simp] theorem takeEnd_busy : s.takeEnd.busy = s.busy := rfl
@[simp] theorem takeEnd_done : s.takeEnd.done = s.done := rfl
@[simp] theorem takeEnd_err : s.takeEnd.err = s.err := rfl
@[simp] theorem takeEnd_inlen : s.takeEnd.inlen = s.inlen := rfl
@[simp] theorem takeEnd_keylen : s.takeEnd.keylen = s.keylen := rfl
@[simp] theorem takeEnd_outlen : s.takeEnd.outlen = s.outlen := rfl
@[simp] theorem takeEnd_ident : s.takeEnd.ident = s.ident := rfl
@[simp] theorem takeEnd_inbuf : s.takeEnd.inbuf = s.inbuf := rfl
@[simp] theorem takeEnd_keybuf : s.takeEnd.keybuf = s.keybuf := rfl
@[simp] theorem takeEnd_outbuf : s.takeEnd.outbuf = s.outbuf := rfl
@[simp] theorem takeEnd_stage : s.takeEnd.stage = s.stage := rfl
@[simp] theorem takeEnd_cur : s.takeEnd.cur = s.cur := rfl
@[simp] theorem takeEnd_esc : s.takeEnd.esc = false := rfl
@[simp] theorem takeEnd_txt : s.takeEnd.txt = s.txt := rfl
@[simp] theorem takeEnd_raw : s.takeEnd.raw = s.raw := rfl
@[simp] theorem takeEnd_stf : s.takeEnd.stf = s.stf := rfl
@[simp] theorem takeEnd_pay : s.takeEnd.pay = s.pay := rfl
@[simp] theorem takeEnd_pln : s.takeEnd.pln = s.pln := rfl
@[simp] theorem takeEnd_hex : s.takeEnd.hex = s.hex := rfl
@[simp] theorem takeEnd_idr : s.takeEnd.idr = s.idr := rfl
@[simp] theorem takeEnd_k : s.takeEnd.k = s.k := rfl
@[simp] theorem takeEnd_cip : s.takeEnd.cip = s.cip := rfl
@[simp] theorem takeEnd_nib : s.takeEnd.nib = s.nib := rfl
@[simp] theorem takeEnd_rdata : s.takeEnd.rdata = s.rdata := rfl
@[simp] theorem takeEnd_free : s.takeEnd.free = s.free := rfl
@[simp] theorem takeEnd_agenda : s.takeEnd.agenda = s.agenda := rfl
@[simp] theorem takeEnd_inCap : s.takeEnd.inCap = s.inCap := rfl

/-! ## `framed` -/

@[simp] theorem framed_busy (xs : List Byte) : (s.framed xs).busy = s.busy := rfl
@[simp] theorem framed_done (xs : List Byte) : (s.framed xs).done = s.done := rfl
@[simp] theorem framed_err (xs : List Byte) : (s.framed xs).err = s.err := rfl
@[simp] theorem framed_inlen (xs : List Byte) : (s.framed xs).inlen = s.inlen := rfl
@[simp] theorem framed_keylen (xs : List Byte) : (s.framed xs).keylen = s.keylen := rfl
@[simp] theorem framed_outlen (xs : List Byte) : (s.framed xs).outlen = s.outlen := rfl
@[simp] theorem framed_ident (xs : List Byte) : (s.framed xs).ident = s.ident := rfl
@[simp] theorem framed_inbuf (xs : List Byte) : (s.framed xs).inbuf = s.inbuf := rfl
@[simp] theorem framed_keybuf (xs : List Byte) : (s.framed xs).keybuf = s.keybuf := rfl
@[simp] theorem framed_outbuf (xs : List Byte) : (s.framed xs).outbuf = s.outbuf := rfl
@[simp] theorem framed_stage (xs : List Byte) : (s.framed xs).stage = 2#3 := rfl
@[simp] theorem framed_cur (xs : List Byte) : (s.framed xs).cur = 0 := rfl
@[simp] theorem framed_esc (xs : List Byte) : (s.framed xs).esc = s.esc := rfl
@[simp] theorem framed_txt (xs : List Byte) : (s.framed xs).txt = s.txt.load xs := rfl
@[simp] theorem framed_raw (xs : List Byte) : (s.framed xs).raw = s.raw := rfl
@[simp] theorem framed_stf (xs : List Byte) : (s.framed xs).stf = s.stf := rfl
@[simp] theorem framed_pay (xs : List Byte) : (s.framed xs).pay = s.pay := rfl
@[simp] theorem framed_pln (xs : List Byte) : (s.framed xs).pln = s.pln := rfl
@[simp] theorem framed_hex (xs : List Byte) : (s.framed xs).hex = s.hex := rfl
@[simp] theorem framed_idr (xs : List Byte) : (s.framed xs).idr = s.idr := rfl
@[simp] theorem framed_k (xs : List Byte) : (s.framed xs).k = s.k := rfl
@[simp] theorem framed_cip (xs : List Byte) : (s.framed xs).cip = s.cip := rfl
@[simp] theorem framed_nib (xs : List Byte) : (s.framed xs).nib = s.nib := rfl
@[simp] theorem framed_rdata (xs : List Byte) : (s.framed xs).rdata = s.rdata := rfl
@[simp] theorem framed_free (xs : List Byte) : (s.framed xs).free = s.free := rfl
@[simp] theorem framed_agenda (xs : List Byte) : (s.framed xs).agenda = s.agenda := rfl
@[simp] theorem framed_inCap (xs : List Byte) : (s.framed xs).inCap = s.inCap := rfl

/-! ## `decryptChunk` -/

@[simp] theorem decryptChunk_busy (key chunk : List Byte) : (s.decryptChunk key chunk).busy = s.busy := rfl
@[simp] theorem decryptChunk_done (key chunk : List Byte) : (s.decryptChunk key chunk).done = s.done := rfl
@[simp] theorem decryptChunk_err (key chunk : List Byte) : (s.decryptChunk key chunk).err = s.err := rfl
@[simp] theorem decryptChunk_inlen (key chunk : List Byte) : (s.decryptChunk key chunk).inlen = s.inlen := rfl
@[simp] theorem decryptChunk_keylen (key chunk : List Byte) : (s.decryptChunk key chunk).keylen = s.keylen := rfl
@[simp] theorem decryptChunk_outlen (key chunk : List Byte) : (s.decryptChunk key chunk).outlen = s.outlen := rfl
@[simp] theorem decryptChunk_ident (key chunk : List Byte) : (s.decryptChunk key chunk).ident = s.ident := rfl
@[simp] theorem decryptChunk_inbuf (key chunk : List Byte) : (s.decryptChunk key chunk).inbuf = s.inbuf := rfl
@[simp] theorem decryptChunk_keybuf (key chunk : List Byte) : (s.decryptChunk key chunk).keybuf = s.keybuf := rfl
@[simp] theorem decryptChunk_outbuf (key chunk : List Byte) : (s.decryptChunk key chunk).outbuf = s.outbuf := rfl
@[simp] theorem decryptChunk_stage (key chunk : List Byte) : (s.decryptChunk key chunk).stage = s.stage := rfl
@[simp] theorem decryptChunk_cur (key chunk : List Byte) : (s.decryptChunk key chunk).cur = s.cur + Config.blkLen := rfl
@[simp] theorem decryptChunk_esc (key chunk : List Byte) : (s.decryptChunk key chunk).esc = s.esc := rfl
@[simp] theorem decryptChunk_txt (key chunk : List Byte) : (s.decryptChunk key chunk).txt = s.txt := rfl
@[simp] theorem decryptChunk_raw (key chunk : List Byte) : (s.decryptChunk key chunk).raw = s.raw := rfl
@[simp] theorem decryptChunk_stf (key chunk : List Byte) : (s.decryptChunk key chunk).stf = s.stf := rfl
@[simp] theorem decryptChunk_pay (key chunk : List Byte) : (s.decryptChunk key chunk).pay = s.pay := rfl
@[simp] theorem decryptChunk_pln (key chunk : List Byte) : (s.decryptChunk key chunk).pln = s.pln.append (blockStore (blockRun (keySplit key) chunk)) := rfl
@[simp] theorem decryptChunk_hex (key chunk : List Byte) : (s.decryptChunk key chunk).hex = s.hex := rfl
@[simp] theorem decryptChunk_idr (key chunk : List Byte) : (s.decryptChunk key chunk).idr = s.idr := rfl
@[simp] theorem decryptChunk_k (key chunk : List Byte) : (s.decryptChunk key chunk).k = keySplit key := rfl
@[simp] theorem decryptChunk_cip (key chunk : List Byte) : (s.decryptChunk key chunk).cip = blockRun (keySplit key) chunk := rfl
@[simp] theorem decryptChunk_nib (key chunk : List Byte) : (s.decryptChunk key chunk).nib = s.nib := rfl
@[simp] theorem decryptChunk_rdata (key chunk : List Byte) : (s.decryptChunk key chunk).rdata = s.rdata := rfl
@[simp] theorem decryptChunk_free (key chunk : List Byte) : (s.decryptChunk key chunk).free = s.free := rfl
@[simp] theorem decryptChunk_agenda (key chunk : List Byte) : (s.decryptChunk key chunk).agenda = s.agenda := rfl
@[simp] theorem decryptChunk_inCap (key chunk : List Byte) : (s.decryptChunk key chunk).inCap = s.inCap := rfl

/-! ## `trimmed` -/

@[simp] theorem trimmed_busy : s.trimmed.busy = false := rfl
@[simp] theorem trimmed_done : s.trimmed.done = true := rfl
@[simp] theorem trimmed_err : s.trimmed.err = 0#3 := rfl
@[simp] theorem trimmed_inlen : s.trimmed.inlen = s.inlen := rfl
@[simp] theorem trimmed_keylen : s.trimmed.keylen = s.keylen := rfl
@[simp] theorem trimmed_outlen : s.trimmed.outlen = BitVec.ofNat 32 (s.hex.len - Config.ckChars) := rfl
@[simp] theorem trimmed_ident : s.trimmed.ident = s.idr := rfl
@[simp] theorem trimmed_inbuf : s.trimmed.inbuf = s.inbuf := rfl
@[simp] theorem trimmed_keybuf : s.trimmed.keybuf = s.keybuf := rfl
@[simp] theorem trimmed_outbuf : s.trimmed.outbuf = s.outbuf.writeRange 0 (s.hex.live.take (s.hex.len - Config.ckChars)) := rfl
@[simp] theorem trimmed_stage : s.trimmed.stage = 0#3 := rfl
@[simp] theorem trimmed_cur : s.trimmed.cur = s.hex.len - Config.ckChars := rfl
@[simp] theorem trimmed_esc : s.trimmed.esc = s.esc := rfl
@[simp] theorem trimmed_txt : s.trimmed.txt = s.txt := rfl
@[simp] theorem trimmed_raw : s.trimmed.raw = s.raw := rfl
@[simp] theorem trimmed_stf : s.trimmed.stf = s.stf := rfl
@[simp] theorem trimmed_pay : s.trimmed.pay = s.pay := rfl
@[simp] theorem trimmed_pln : s.trimmed.pln = s.pln := rfl
@[simp] theorem trimmed_hex : s.trimmed.hex = s.hex := rfl
@[simp] theorem trimmed_idr : s.trimmed.idr = s.idr := rfl
@[simp] theorem trimmed_k : s.trimmed.k = s.k := rfl
@[simp] theorem trimmed_cip : s.trimmed.cip = s.cip := rfl
@[simp] theorem trimmed_nib : s.trimmed.nib = s.nib := rfl
@[simp] theorem trimmed_rdata : s.trimmed.rdata = s.rdata := rfl
@[simp] theorem trimmed_free : s.trimmed.free = s.free := rfl
@[simp] theorem trimmed_agenda : s.trimmed.agenda = s.agenda := rfl
@[simp] theorem trimmed_inCap : s.trimmed.inCap = s.inCap := rfl

end Sys2Proof.Laws
end

