-- ==== Sys2Proof/Laws/Ops.lean ====
section
/-! SUPPORT. For each shared operation, once, what it can do. -/

namespace Sys2Proof.Laws

open Sys2Proof Sys2Proof.Machine

/-! ## Marker patterns -/

/-- The match of the SOF row is the table's (R99). -/
@[simp] theorem markPattern_sof : markPattern Config.sof = 0x4330#16 := rfl
/-- The match of the EOFM row is the table's (R99). -/
@[simp] theorem markPattern_eofM : markPattern Config.eofM = 0x4332#16 := rfl
@[simp] theorem markLetter_sof (lc : Bool) : markLetter Config.sof lc = if lc then 0x63#8 else 0x43#8 := by
  cases lc <;> rfl
@[simp] theorem markLetter_eofM (lc : Bool) : markLetter Config.eofM lc = if lc then 0x63#8 else 0x43#8 := by
  cases lc <;> rfl
@[simp] theorem markDigit_sof : markDigit Config.sof = 0x30#8 := rfl
@[simp] theorem markDigit_eofM : markDigit Config.eofM = 0x32#8 := rfl

/-! ## Tokens -/

/-- A nibble at an even cursor is held; at an odd one it completes a byte of RAW. -/
theorem takeNibble_cases (s : State) (d : Nibble) :
    (s.cur % 2 = 0 ∧ s.takeNibble d = { s with nib := d, cur := s.cur + 1 }) ∨
    (s.cur % 2 = 1 ∧ s.takeNibble d = { s with raw := s.raw.emit (pairByte s.nib d), cur := s.cur + 1 }) := by
  unfold State.takeNibble
  split
  · rename_i h; exact .inl ⟨h, rfl⟩
  · exact .inr ⟨by omega, rfl⟩

/-- A marker check passes the pair at its position and is a frame error anywhere else. -/
theorem takeMarker_cases (s : State) (position : Nat) :
    (4 ≤ s.inlen.toNat ∧ s.cur = position ∧ s.takeMarker position = { s with cur := s.cur + 2 }) ∨
    ((s.inlen.toNat < 4 ∨ s.cur ≠ position) ∧ s.takeMarker position = s.raise .frame) := by
  unfold State.takeMarker Config.minLen
  split
  · rename_i h; exact .inl ⟨h.1, h.2, rfl⟩
  · rename_i h; exact .inr ⟨by omega, rfl⟩

/-- The byte after a sentinel that decrements to the sentinel is 0xC5. -/
theorem sub_one_eq_sentinel (n : Byte) : n - 1#8 = Config.sentinel ↔ n = Config.sentinel + 1#8 := by
  unfold Config.sentinel; bv_omega

/-- What one byte of STF does, token by token. -/
theorem destuffByte_cases (s : State) (n : Byte) :
    (s.esc = false ∧ n = Config.sentinel ∧ destuffByte s n = s.takeOpen) ∨
    (s.esc = false ∧ n ≠ Config.sentinel ∧ destuffByte s n = s.takeLit n) ∨
    (s.esc = true ∧ n = Config.sentinel ∧ destuffByte s n = s.takeSelf) ∨
    (s.esc = true ∧ n = Config.sentinel + 1#8 ∧ destuffByte s n = s.takeChain) ∨
    (s.esc = true ∧ n ≠ Config.sentinel ∧ n ≠ Config.sentinel + 1#8 ∧ destuffByte s n = s.takeDec n) := by
  unfold destuffByte
  simp only [sub_one_eq_sentinel]
  cases s.esc
  · by_cases h : n = Config.sentinel <;> simp [h]
  · by_cases h : n = Config.sentinel
    · simp [h]
    · by_cases h' : n = Config.sentinel + 1#8
      · have : Config.sentinel + 1#8 ≠ Config.sentinel := by decide
        simp [h', this]
      · simp [h, h']

/-! ## START -/

/-- Everything a START can answer. -/
theorem execStart_cases (ignored : BitVec 31) (s : State) :
    (s.busy = true ∧ execStart ignored s = .next s) ∨
    (s.busy = false ∧ s.inCap < s.inlen.toNat ∧ execStart ignored s = .refused .overCapacity) ∨
    (s.busy = false ∧ s.inlen.toNat ≤ s.inCap ∧ (s.packet = none ∨ (s.keylen.toNat = 16 ∧ s.key = none)) ∧
      execStart ignored s = .refused .unwrittenCell) ∨
    (s.busy = false ∧ s.inlen.toNat ≤ s.inCap ∧ s.packet.isSome = true ∧
      (s.keylen.toNat = 16 → s.key.isSome = true) ∧ execStart ignored s = .next s.accept) := by
  unfold execStart Config.keyLen
  cases hb : s.busy
  · by_cases hc : s.inCap < s.inlen.toNat
    · simp [hc]
    · cases hp : s.packet
      · simp [hc]; omega
      · by_cases hk : s.keylen.toNat = 16
        · cases hkey : s.key <;> simp [hc, hk] <;> omega
        · simp [hc, hk]; omega
  · simp

/-! ## The stages -/

/-- Everything FRAME can answer. -/
theorem execFrame_cases (s : State) :
    execFrame s = .next (s.enter.raise .frame) ∨
    (∃ interior, s.inbuf.readRange 2 (s.inlen.toNat - 4) = some interior ∧ 4 ≤ s.inlen.toNat ∧
      execFrame s = .next (s.framed interior)) ∨
    (s.inCap < s.inlen.toNat ∧ execFrame s = .fault .noSuchCell) ∨
    execFrame s = .refused .unwrittenCell := by
  unfold execFrame Config.minLen
  dsimp only
  split
  · exact .inl rfl
  · split
    · rename_i h; exact .inr (.inr (.inl ⟨h, rfl⟩))
    · split
      · split
        · split
          · split
            · split
              · rename_i xs hx; exact .inr (.inl ⟨xs, hx, by omega, rfl⟩)
              · exact .inr (.inr (.inr rfl))
            · exact .inl rfl
          · exact .inr (.inr (.inr rfl))
        · exact .inl rfl
      · exact .inr (.inr (.inr rfl))

/-- Everything HEXDEC can answer. -/
theorem execHexdec_cases (s : State) :
    execHexdec s = .next (s.enter.raise .encoding) ∨
    (∃ digits, s.txt.len % 2 = 0 ∧ hexvals s.txt.live = some digits ∧
      execHexdec s = .next ((digits.foldl State.takeNibble { s with raw := s.raw.clear, cur := 0 }).goto 3#3)) := by
  unfold execHexdec
  split
  · exact .inl rfl
  · split
    · rename_i h _ ds hd; exact .inr ⟨ds, by omega, hd, rfl⟩
    · exact .inl rfl

/-- Everything IDEXT can answer. -/
theorem execIdext_cases (s : State) :
    (s.raw.len < 8 ∧ execIdext s = .next (s.enter.raise .frame)) ∨
    (8 ≤ s.raw.len ∧ execIdext s = .next (({ s with
      idr := BitVec.ofNat 64 (memRead s.raw.live 0 8)
      stf := s.stf.load (s.raw.live.drop 8) } : State).goto 4#3)) := by
  unfold execIdext Config.idLen
  split
  · rename_i h; exact .inl ⟨h, rfl⟩
  · exact .inr ⟨by omega, rfl⟩

/-- Everything one turn of CIPHER's loop can do. -/
theorem cipherLoop_cons (chunk : List Byte) (rest : List (List Byte)) (s : State) :
    (s.keylen.toNat ≠ 16 ∧ cipherLoop (chunk :: rest) s = .next (s.raise .key)) ∨
    (s.keylen.toNat = 16 ∧ chunk.length ≠ 8 ∧ cipherLoop (chunk :: rest) s = .next (s.raise .block)) ∨
    (s.keylen.toNat = 16 ∧ chunk.length = 8 ∧ s.key = none ∧
      cipherLoop (chunk :: rest) s = .refused .unwrittenCell) ∨
    (∃ key, s.keylen.toNat = 16 ∧ chunk.length = 8 ∧ s.key = some key ∧
      cipherLoop (chunk :: rest) s = cipherLoop rest (s.decryptChunk key chunk)) := by
  simp only [cipherLoop, Config.keyLen, Config.blkLen]
  by_cases hk : s.keylen.toNat = 16
  · by_cases hc : chunk.length = 8
    · cases hkey : s.key with
      | none => exact .inr (.inr (.inl (by simp [hk, hc])))
      | some key => exact .inr (.inr (.inr ⟨key, by simp [hk, hc]⟩))
    · exact .inr (.inl (by simp [hk, hc]))
  · exact .inl (by simp [hk])

/-- Everything TRIM can answer. -/
theorem execTrim_cases (s : State) :
    (s.hex.len < 4 ∧ execTrim s = .next (s.enter.raise .checksum)) ∨
    (4 ≤ s.hex.len ∧ s.inCap < s.hex.len - 4 ∧ execTrim s = .fault .noSuchCell) ∨
    (4 ≤ s.hex.len ∧ s.hex.len - 4 ≤ s.inCap ∧ execTrim s = .next s.trimmed) := by
  unfold execTrim Config.ckChars Config.outCap
  split
  · rename_i h; exact .inl ⟨h, rfl⟩
  · split
    · rename_i h; exact .inr (.inl ⟨by omega, h, rfl⟩)
    · exact .inr (.inr ⟨by omega, by omega, rfl⟩)

/-! ## The host port -/

/-- Everything a host read can answer. -/
theorem hostRead_cases (w : Width) (off : Nat) (s : State) :
    (accessOk s.inCap w off = false ∧ hostRead w off s = .refused .badAccess) ∨
    (∃ v, accessOk s.inCap w off = true ∧ readPlace s (place s.inCap off) = some v ∧
      hostRead w off s = .next { s with rdata := v }) ∨
    (accessOk s.inCap w off = true ∧ readPlace s (place s.inCap off) = none ∧
      hostRead w off s = .next { s with rdata := (Config.freeByte s.free).zeroExtend 32, free := s.free + 1 }) := by
  unfold hostRead
  cases h : accessOk s.inCap w off
  · exact .inl ⟨rfl, rfl⟩
  · cases hr : readPlace s (place s.inCap off) with
    | none => exact .inr (.inr ⟨rfl, rfl, rfl⟩)
    | some v => exact .inr (.inl ⟨v, rfl, rfl, rfl⟩)

/-- Everything a host write can answer. -/
theorem hostWrite_cases (w : Width) (off : Nat) (v : Word) (s : State) :
    (accessOk s.inCap w off = false ∧ hostWrite w off v s = .refused .badAccess) ∨
    (∃ i, accessOk s.inCap w off = true ∧ place s.inCap off = .ctrl ∧ decodeCmd v = .ok i ∧
      hostWrite w off v s = exec i s) ∨
    (accessOk s.inCap w off = true ∧ place s.inCap off = .ctrl ∧ v.getLsbD 0 = false ∧
      hostWrite w off v s = .next s) ∨
    (accessOk s.inCap w off = true ∧ place s.inCap off ≠ .ctrl ∧ s.busy = true ∧ hostWrite w off v s = .next s) ∨
    (accessOk s.inCap w off = true ∧ place s.inCap off ≠ .ctrl ∧ s.busy = false ∧
      hostWrite w off v s = .next (writePlace s v (place s.inCap off))) := by
  unfold hostWrite
  cases h : accessOk s.inCap w off
  · exact .inl ⟨rfl, rfl⟩
  · by_cases hp : place s.inCap off = .ctrl
    · cases hv : v.getLsbD 0
      · refine .inr (.inr (.inl ⟨rfl, hp, rfl, ?_⟩))
        have hd : decodeCmd v = .error .noCommand := by unfold decodeCmd; rw [hv]; rfl
        simp [hp, hd]
      · have hd : decodeCmd v = .ok (.start (v.extractLsb' 1 31)) := by unfold decodeCmd; rw [hv]; rfl
        exact .inr (.inl ⟨_, rfl, hp, hd, by simp [hp, hd]⟩)
    · cases hb : s.busy
      · exact .inr (.inr (.inr (.inr ⟨rfl, hp, rfl, by simp [hp]⟩)))
      · exact .inr (.inr (.inr (.inl ⟨rfl, hp, rfl, by simp [hp]⟩)))

/-- CTRL decodes to START and nothing else. -/
theorem decodeCmd_ok {v : Word} {i : Instr} (h : decodeCmd v = .ok i) : i = .start (v.extractLsb' 1 31) := by
  unfold decodeCmd at h
  split at h
  · cases h; rfl
  · cases h

end Sys2Proof.Laws
end

