-- ==== Sys2Proof/Laws/HostPort.lean ====
section
/-! SUPPORT. The address map and the access check, once: what each offset names, and which accesses are defined. -/

namespace Sys2Proof.Laws

open Sys2Proof Sys2Proof.Machine

/-- INBUF ends at or below the base of OUTBUF. -/
theorem outBase_ge (c : Nat) : 0x1000 + c ≤ Config.outBase c := by unfold Config.outBase; omega

/-- Everything an offset can name. -/
theorem place_cases (c off : Nat) :
    (off < 0x04 ∧ place c off = .ctrl) ∨
    (0x04 ≤ off ∧ off < 0x08 ∧ place c off = .status) ∨
    (0x08 ≤ off ∧ off < 0x0C ∧ place c off = .inlen) ∨
    (0x0C ≤ off ∧ off < 0x10 ∧ place c off = .keylen) ∨
    (0x10 ≤ off ∧ off < 0x14 ∧ place c off = .outlen) ∨
    (0x18 ≤ off ∧ off < 0x1C ∧ place c off = .identLo) ∨
    (0x1C ≤ off ∧ off < 0x20 ∧ place c off = .identHi) ∨
    (0x20 ≤ off ∧ off < 0x30 ∧ place c off = .keybuf (off - 0x20)) ∨
    (0x1000 ≤ off ∧ off < 0x1000 + c ∧ place c off = .inbuf (off - 0x1000)) ∨
    (Config.outBase c ≤ off ∧ off < Config.outBase c + c ∧ place c off = .outbuf (off - Config.outBase c)) ∨
    ((0x14 ≤ off ∧ off < 0x18 ∨ 0x30 ≤ off ∧ off < 0x1000 ∨ 0x1000 + c ≤ off ∧ off < Config.outBase c ∨
      Config.outBase c + c ≤ off) ∧ place c off = .reserved) := by
  have := outBase_ge c
  unfold place Config.outCap
  by_cases h0 : off < 0x04
  · simp only [if_pos h0]; exact .inl ⟨by omega, trivial⟩
  simp only [if_neg h0]
  by_cases h1 : off < 0x08
  · simp only [if_pos h1]; exact .inr (.inl ⟨by omega, by omega, trivial⟩)
  simp only [if_neg h1]
  by_cases h2 : off < 0x0C
  · simp only [if_pos h2]; exact .inr (.inr (.inl ⟨by omega, by omega, trivial⟩))
  simp only [if_neg h2]
  by_cases h3 : off < 0x10
  · simp only [if_pos h3]; exact .inr (.inr (.inr (.inl ⟨by omega, by omega, trivial⟩)))
  simp only [if_neg h3]
  by_cases h4 : off < 0x14
  · simp only [if_pos h4]; exact .inr (.inr (.inr (.inr (.inl ⟨by omega, by omega, trivial⟩))))
  simp only [if_neg h4]
  by_cases h5 : off < 0x18
  · simp only [if_pos h5]; exact .inr (.inr (.inr (.inr (.inr (.inr (.inr (.inr (.inr (.inr (⟨by omega, trivial⟩))))))))))
  simp only [if_neg h5]
  by_cases h6 : off < 0x1C
  · simp only [if_pos h6]; exact .inr (.inr (.inr (.inr (.inr (.inl ⟨by omega, by omega, trivial⟩)))))
  simp only [if_neg h6]
  by_cases h7 : off < 0x20
  · simp only [if_pos h7]; exact .inr (.inr (.inr (.inr (.inr (.inr (.inl ⟨by omega, by omega, trivial⟩))))))
  simp only [if_neg h7]
  by_cases h8 : off < 0x30
  · simp only [if_pos h8]; exact .inr (.inr (.inr (.inr (.inr (.inr (.inr (.inl ⟨by omega, by omega, trivial⟩)))))))
  simp only [if_neg h8]
  by_cases h9 : off < 0x1000
  · simp only [if_pos h9]; exact .inr (.inr (.inr (.inr (.inr (.inr (.inr (.inr (.inr (.inr (⟨by omega, trivial⟩))))))))))
  simp only [if_neg h9]
  by_cases h10 : off - 0x1000 < c
  · simp only [if_pos h10]; exact .inr (.inr (.inr (.inr (.inr (.inr (.inr (.inr (.inl ⟨by omega, by omega, trivial⟩))))))))
  simp only [if_neg h10]
  by_cases h11 : off < Config.outBase c
  · simp only [if_pos h11]; exact .inr (.inr (.inr (.inr (.inr (.inr (.inr (.inr (.inr (.inr (⟨by omega, trivial⟩))))))))))
  simp only [if_neg h11]
  by_cases h12 : off - Config.outBase c < c
  · simp only [if_pos h12]; exact .inr (.inr (.inr (.inr (.inr (.inr (.inr (.inr (.inr (.inl ⟨by omega, by omega, trivial⟩)))))))))
  simp only [if_neg h12]
  exact .inr (.inr (.inr (.inr (.inr (.inr (.inr (.inr (.inr (.inr (⟨by omega, trivial⟩))))))))))

/-- The cells of KEYBUF. -/
theorem place_keybuf (c : Nat) {i : Nat} (h : i < 16) : place c (0x20 + i) = .keybuf i := by
  have := outBase_ge c
  obtain h | h | h | h | h | h | h | h | h | h | h := place_cases c (0x20 + i)
  case inr.inr.inr.inr.inr.inr.inr.inl => exact h.2.2.trans (congrArg Place.keybuf (by omega))
  all_goals omega

/-- The cells of INBUF. -/
theorem place_inbuf {c i : Nat} (h : i < c) : place c (0x1000 + i) = .inbuf i := by
  have := outBase_ge c
  obtain h | h | h | h | h | h | h | h | h | h | h := place_cases c (0x1000 + i)
  case inr.inr.inr.inr.inr.inr.inr.inr.inl => exact h.2.2.trans (congrArg Place.inbuf (by omega))
  all_goals omega

/-- The cells of OUTBUF. -/
theorem place_outbuf {c i : Nat} (h : i < Config.outCap c) : place c (Config.outBase c + i) = .outbuf i := by
  have := outBase_ge c
  unfold Config.outCap at h
  obtain h | h | h | h | h | h | h | h | h | h | h := place_cases c (Config.outBase c + i)
  case inr.inr.inr.inr.inr.inr.inr.inr.inr.inl => exact h.2.2.trans (congrArg Place.outbuf (by omega))
  all_goals omega

/-- The reserved offsets. -/
theorem place_reserved {c off : Nat} (h : ReservedOffset c off) : place c off = .reserved := by
  have := outBase_ge c
  unfold ReservedOffset Config.outCap at h
  obtain h | h | h | h | h | h | h | h | h | h | h := place_cases c off
  case inr.inr.inr.inr.inr.inr.inr.inr.inr.inr => exact h.2
  all_goals omega

/-- The access check accepts exactly the accesses the spec defines. -/
theorem accessOk_iff (c : Nat) (w : Width) (off : Nat) : accessOk c w off = true ↔ LegalAccess c w off := by
  have := outBase_ge c
  unfold LegalAccess accessOk ReservedOffset Config.outCap
  obtain h | h | h | h | h | h | h | h | h | h | h := place_cases c off
  case inl =>
    rw [h.2]; cases w <;> simp only [reduceCtorEq, false_and, true_and, false_or, or_false, beq_iff_eq,
      Bool.false_eq_true, false_iff] <;> omega
  case inr.inr.inr.inr.inr.inr.inr.inr.inr.inr =>
    rw [h.2]; cases w <;> simp only [reduceCtorEq, false_and, true_and, false_or, or_false, beq_iff_eq,
      Bool.false_eq_true, true_iff] <;> omega
  all_goals
    rw [h.2.2]; cases w <;> simp only [reduceCtorEq, false_and, true_and, false_or, or_false, beq_iff_eq,
      Bool.false_eq_true, true_iff, false_iff] <;> omega

end Sys2Proof.Laws
end

