-- ==== Sys2Proof/Laws/PerInstr.lean ====
section
/-! SUPPORT. Statements for all instructions, made per instruction. -/

namespace Sys2Proof.Laws.EncodeFits

open Sys2Proof

/-- The encoder lays an instruction out in as many bytes as its format has (R94). -/
def Statement (i : Instr) : Prop := (encode i).2.length = (encode i).1.byteCount

theorem hex0 : Statement .hex0 := rfl
theorem hex1 : Statement .hex1 := rfl
theorem hex2 : Statement .hex2 := rfl
theorem hex3 : Statement .hex3 := rfl
theorem hex4 : Statement .hex4 := rfl
theorem hex5 : Statement .hex5 := rfl
theorem hex6 : Statement .hex6 := rfl
theorem hex7 : Statement .hex7 := rfl
theorem hex8 : Statement .hex8 := rfl
theorem hex9 : Statement .hex9 := rfl
theorem hexUcA : Statement .hexUcA := rfl
theorem hexUcB : Statement .hexUcB := rfl
theorem hexUcC : Statement .hexUcC := rfl
theorem hexUcD : Statement .hexUcD := rfl
theorem hexUcE : Statement .hexUcE := rfl
theorem hexUcF : Statement .hexUcF := rfl
theorem hexLcA : Statement .hexLcA := rfl
theorem hexLcB : Statement .hexLcB := rfl
theorem hexLcC : Statement .hexLcC := rfl
theorem hexLcD : Statement .hexLcD := rfl
theorem hexLcE : Statement .hexLcE := rfl
theorem hexLcF : Statement .hexLcF := rfl
theorem sof (lowerCase : Bool) : Statement (.sof lowerCase) := rfl
theorem eofm (lowerCase : Bool) : Statement (.eofm lowerCase) := rfl
theorem lit (n : Byte) : Statement (.lit n) := rfl
theorem escOpen : Statement .escOpen := rfl
theorem escSelf : Statement .escSelf := rfl
theorem escDec (n : Byte) : Statement (.escDec n) := rfl
theorem escChain : Statement .escChain := rfl
theorem escEnd : Statement .escEnd := rfl
theorem start (ignored : BitVec 31) : Statement (.start ignored) := rfl
theorem frame : Statement .frame := rfl
theorem hexdec : Statement .hexdec := rfl
theorem idext : Statement .idext := rfl
theorem destuff : Statement .destuff := rfl
theorem cipher : Statement .cipher := rfl
theorem hexenc : Statement .hexenc := rfl
theorem trim : Statement .trim := rfl

end Sys2Proof.Laws.EncodeFits
end

