-- ==== Sys2Proof/Laws/Step.lean ====
section
/-! SUPPORT. What the Engine fetches and what a step does, event by event; a run of the machine step by step. -/

namespace Sys2Proof.Laws

open Sys2Proof Sys2Proof.Machine

/-! ## What is fetched -/

/-- A character that decodes is a nibble. -/
theorem char_exec {c : Byte} {i : Instr} (h : decodeChar c = .ok i) (s : State) :
    ∃ d, exec i s = .next (s.takeNibble d) := by
  have all : ∀ c, (decodeChar c).toOption.all (fun i => decide (i ∈ charRows.map Prod.fst)) = true := by decide
  have hm := all c
  rw [h] at hm
  simp only [Except.toOption, Option.all_some, decide_eq_true_eq, charRows, List.map_cons, List.map_nil, List.mem_cons,
    List.not_mem_nil, or_false] at hm
  rcases hm with h | h | h | h | h | h | h | h | h | h | h | h | h | h | h | h | h | h | h | h | h | h <;>
    exact ⟨_, by rw [h]; rfl⟩

/-- A pair that decodes is a marker. -/
theorem mark_exec {a b : Byte} {i : Instr} (h : decodeMark a b = .ok i) (s : State) :
    ∃ p, exec i s = .next (s.takeMarker p) := by
  unfold decodeMark at h; dsimp only at h
  repeat' split at h
  all_goals first | (cases h; exact ⟨_, rfl⟩) | cases h

/-- A byte of STF changes PAY, ESC and the cursor only. -/
theorem stuff_exec (e : Bool) (n : Byte) (s : State) :
    ∃ b e' c, exec (decodeStuff e n) s = .next { s with pay := b, esc := e', cur := c } := by
  unfold decodeStuff
  repeat' split
  all_goals exact ⟨_, _, _, rfl⟩

/-- Everything the fetch of a token can give, and what the token does. -/
theorem token_cases {s : State} {i : Instr} (h : fetchToken s = some i) :
    (s.stage = 1#3 ∧ ∃ p, exec i s = .next (s.takeMarker p)) ∨
    (s.stage = 2#3 ∧ ∃ d, exec i s = .next (s.takeNibble d)) ∨
    (s.stage = 4#3 ∧ ∃ b e' c, exec i s = .next { s with pay := b, esc := e', cur := c }) := by
  unfold fetchToken at h
  split at h
  · rename_i h1; left; refine ⟨h1, ?_⟩
    split at h
    · split at h
      · rename_i a b _
        cases e : decodeMark a b with
        | error => rw [e] at h; cases h
        | ok j => rw [e] at h; cases h; exact mark_exec e s
      · cases h
    · cases h
  split at h
  · rename_i h1; right; left; refine ⟨h1, ?_⟩
    split at h
    · rename_i c _
      cases e : decodeChar c with
        | error => rw [e] at h; cases h
        | ok j => rw [e] at h; cases h; exact char_exec e s
    · cases h
  split at h
  · rename_i h1; right; right; refine ⟨h1, ?_⟩
    split at h
    · cases h; exact stuff_exec _ _ _
    · split at h
      · cases h; exact ⟨_, _, _, rfl⟩
      · cases h
  · cases h

/-- The stage operation of each code. -/
theorem stage_codes {s : State} {i : Instr} (h : decodeStage s.stage = .ok i) :
    (s.stage = 1#3 ∧ i = .frame) ∨ (s.stage = 2#3 ∧ i = .hexdec) ∨ (s.stage = 3#3 ∧ i = .idext) ∨
    (s.stage = 4#3 ∧ i = .destuff) ∨ (s.stage = 5#3 ∧ i = .cipher) ∨ (s.stage = 6#3 ∧ i = .hexenc) ∨
    (s.stage = 7#3 ∧ i = .trim) := by
  unfold decodeStage at h
  repeat' split at h
  all_goals first | (cases h; simp_all) | cases h

/-- Every code but 0 names a stage operation. -/
theorem stage_ok {c : BitVec 3} (h : c ≠ 0#3) : ∃ i, decodeStage c = .ok i := by
  have : ∀ c : BitVec 3, c ≠ 0#3 → (decodeStage c).toOption.isSome = true := by decide
  cases e : decodeStage c with
  | ok i => exact ⟨i, rfl⟩
  | error => have := this c h; rw [e] at this; cases this

/-! ## Steps -/

/-- A turn of a running Engine is the stage operation STAGE names. -/
theorem engineStep_busy {s : State} {i : Instr} (hb : s.busy = true) (hd : decodeStage s.stage = .ok i) :
    engineStep s = exec i s := by
  simp [engineStep, hb, hd]

/-- An idle Engine changes nothing. -/
theorem engineStep_idle {s : State} (hb : s.busy = false) : engineStep s = .next s := by
  simp [engineStep, hb]

theorem step_empty {s : State} (h : s.agenda = []) : step s = engineStep s := by
  simp [step, h]

theorem step_engine {s : State} {rest : List Event} (h : s.agenda = .engine :: rest) :
    step s = engineStep { s with agenda := rest } := by
  simp [step, h]

theorem step_token {s : State} {rest : List Event} (h : s.agenda = .token :: rest) :
    step s = tokenStep { s with agenda := rest } := by
  simp [step, h]

theorem step_reset {s : State} {rest : List Event} (h : s.agenda = .reset :: rest) :
    step s = .next ({ s with agenda := rest } : State).toReset := by
  simp [step, h]

theorem step_read {s : State} {w : Width} {off : Nat} {rest : List Event}
    (h : s.agenda = .host (.read w off) :: rest) : step s = hostRead w off { s with agenda := rest } := by
  simp [step, h]

theorem step_write {s : State} {w : Width} {off : Nat} {v : Word} {rest : List Event}
    (h : s.agenda = .host (.write w off v) :: rest) : step s = hostWrite w off v { s with agenda := rest } := by
  simp [step, h]

/-- One more step of a run. -/
theorem run_succ (n : Nat) (s : State) :
    Sys2Proof.core.run (n + 1) s = (match step s with
      | .next t => Sys2Proof.core.run n t
      | .fault r => .fault r
      | .refused r => .refused r : Host.Outcome State Fault Refusal) := by
  unfold core
  rw [Host.Core.run.eq_2]
  dsimp only
  cases step s <;> rfl

end Sys2Proof.Laws
end

