-- ==== Sys2Proof/Tests/Slice0.lean ====
section
/-! SUPPORT. Tests: the smoke test of WellFormed, words written out from the spec's encodings, vectors of
spec/95_test_vectors.md, and a witness for every obligation that has hypotheses. -/

namespace Sys2Proof.Tests

open Sys2Proof Sys2Proof.Machine

/-- Bytes from numbers. -/
def bytes (l : List Nat) : List Byte := l.map (BitVec.ofNat 8)

/-- A stage buffer with these live cells. -/
def buf (l : List Nat) : Buffer := { live := bytes l, stale := [] }

/-- The state after reset, with the agenda given. -/
def due (es : List Event) : State := { State.reset with agenda := es }

/-- The state after reset with a packet in INBUF and a key in KEYBUF. -/
def loaded (pkt key : List Byte) : State :=
  { State.reset with
    inlen := BitVec.ofNat 32 pkt.length, inbuf := Memory.writeRange [] 0 pkt
    keylen := BitVec.ofNat 32 key.length, keybuf := Memory.writeRange [] 0 key }

/-- The next state of an outcome, reset where there is none. -/
def after (o : Host.Outcome State Fault Refusal) : State :=
  match o with
  | .next t => t
  | .fault _ | .refused _ => State.reset

/-- The outcome is a next state. -/
def runs (o : Host.Outcome State Fault Refusal) : Bool :=
  match o with
  | .next _ => true
  | .fault _ | .refused _ => false

/-- The ASCII key `0123456789abcdef` of the vectors. -/
def asciiKey : List Byte :=
  bytes [0x30, 0x31, 0x32, 0x33, 0x34, 0x35, 0x36, 0x37, 0x38, 0x39, 0x61, 0x62, 0x63, 0x64, 0x65, 0x66]

/-- The key bytes `00` to `0F` of the vectors. -/
def countKey : List Byte := bytes [0, 1, 2, 3, 4, 5, 6, 7, 8, 9, 10, 11, 12, 13, 14, 15]

/-- Vector E15: `c015cd5b07000000004c9f008d515eef88c2`. -/
def packetE15 : List Byte :=
  bytes [0x63, 0x30, 0x31, 0x35, 0x63, 0x64, 0x35, 0x62, 0x30, 0x37, 0x30, 0x30, 0x30, 0x30, 0x30, 0x30, 0x30, 0x30] ++
  bytes [0x34, 0x63, 0x39, 0x66, 0x30, 0x30, 0x38, 0x64, 0x35, 0x31, 0x35, 0x65, 0x65, 0x66, 0x38, 0x38, 0x63, 0x32]

/-- The decoder reads this instruction from the pattern. -/
def reads (f : Format) (bs : List Byte) (i : Instr) : Bool :=
  match decode f bs with
  | .ok j => decide (j = i)
  | .error _ => false

/-- The decoder rejects the pattern by this name. -/
def rejects (f : Format) (bs : List Byte) (e : DecodeError) : Bool :=
  match decode f bs with
  | .ok _ => false
  | .error d => decide (d = e)

/-! ## WellFormed -/

theorem test_lit_refuses_sentinel : (Instr.lit 0xC4#8).wellFormed = false := by decide
theorem test_escDec_refuses_sentinel : (Instr.escDec 0xC4#8).wellFormed = false := by decide
theorem test_escDec_refuses_chain : (Instr.escDec 0xC5#8).wellFormed = false := by decide

/-! ## Words written out from spec/30_encoding.md -/

theorem test_decode_digits :
    reads .char [0x30#8] .hex0 = true ∧
    reads .char [0x31#8] .hex1 = true ∧
    reads .char [0x32#8] .hex2 = true ∧
    reads .char [0x33#8] .hex3 = true ∧
    reads .char [0x34#8] .hex4 = true ∧
    reads .char [0x35#8] .hex5 = true ∧
    reads .char [0x36#8] .hex6 = true ∧
    reads .char [0x37#8] .hex7 = true ∧
    reads .char [0x38#8] .hex8 = true ∧
    reads .char [0x39#8] .hex9 = true := by decide

theorem test_decode_upper :
    reads .char [0x41#8] .hexUcA = true ∧
    reads .char [0x42#8] .hexUcB = true ∧
    reads .char [0x43#8] .hexUcC = true ∧
    reads .char [0x44#8] .hexUcD = true ∧
    reads .char [0x45#8] .hexUcE = true ∧
    reads .char [0x46#8] .hexUcF = true := by decide

theorem test_decode_lower :
    reads .char [0x61#8] .hexLcA = true ∧
    reads .char [0x62#8] .hexLcB = true ∧
    reads .char [0x63#8] .hexLcC = true ∧
    reads .char [0x64#8] .hexLcD = true ∧
    reads .char [0x65#8] .hexLcE = true ∧
    reads .char [0x66#8] .hexLcF = true := by decide

theorem test_decode_non_hex :
    rejects .char [0x2F#8] .nonHexCharacter = true ∧
    rejects .char [0x3A#8] .nonHexCharacter = true ∧
    rejects .char [0x40#8] .nonHexCharacter = true ∧
    rejects .char [0x47#8] .nonHexCharacter = true ∧
    rejects .char [0x60#8] .nonHexCharacter = true ∧
    rejects .char [0x67#8] .nonHexCharacter = true ∧
    rejects .char [0x00#8] .nonHexCharacter = true ∧
    rejects .char [0x80#8] .nonHexCharacter = true ∧
    rejects .char [0xFF#8] .nonHexCharacter = true := by decide

theorem test_decode_markers :
    reads .mark [0x43#8, 0x30#8] (.sof false) = true ∧
    reads .mark [0x63#8, 0x30#8] (.sof true) = true ∧
    reads .mark [0x43#8, 0x32#8] (.eofm false) = true ∧
    reads .mark [0x63#8, 0x32#8] (.eofm true) = true ∧
    rejects .mark [0x63#8, 0x4F#8] .notAMarker = true := by decide

theorem test_decode_stuff :
    reads .stuff [0xC5#8, 0#8] (.lit 0xC5#8) = true ∧
    reads .stuff [0xC4#8, 0#8] .escOpen = true ∧
    reads .stuff [0xC4#8, 1#8] .escSelf = true ∧
    reads .stuff [0xC6#8, 1#8] (.escDec 0xC6#8) = true ∧
    reads .stuff [0xC5#8, 1#8] .escChain = true ∧
    reads .stuffEnd [] .escEnd = true := by decide

theorem test_decode_command :
    reads .cmd [0x01#8, 0x00#8, 0x00#8, 0x00#8] (.start 0#31) = true ∧
    reads .cmd [0xFF#8, 0xFF#8, 0xFF#8, 0xFF#8] (.start 0x7FFFFFFF#31) = true ∧
    rejects .cmd [0xFE#8, 0xFF#8, 0xFF#8, 0xFF#8] .noCommand = true := by decide

theorem test_decode_stages :
    reads .stg [1#8] .frame = true ∧
    reads .stg [2#8] .hexdec = true ∧
    reads .stg [3#8] .idext = true ∧
    reads .stg [4#8] .destuff = true ∧
    reads .stg [5#8] .cipher = true ∧
    reads .stg [6#8] .hexenc = true ∧
    reads .stg [7#8] .trim = true ∧
    rejects .stg [0#8] .idleStage = true := by decide

/-! ## The host's two questions on table words -/

/-- The decoder reads the row's word, and `step` runs it first after reset. -/
def fetches (nbits w : Nat) : Bool :=
  match decodeTableWord nbits w with
  | none => false
  | some i =>
    let s := State.reset.withFetchWord nbits w
    decide (after (step s) = after (exec i { s with agenda := [] })) && runs (step s)

theorem test_fetch_chars : fetches 8 0x30 = true ∧ fetches 8 0x46 = true ∧ fetches 8 0x61 = true := by decide
theorem test_fetch_markers : fetches 16 0x4330 = true ∧ fetches 16 0x6332 = true := by decide
theorem test_fetch_stuff : fetches 16 0x000 = true ∧ fetches 16 0x0C4 = true ∧ fetches 16 0x1C4 = true ∧
    fetches 16 0x100 = true ∧ fetches 16 0x1C5 = true ∧ fetches 0 0 = true := by decide
theorem test_fetch_start : fetches 32 1 = true := by decide
theorem test_fetch_stages : fetches 8 1 = true ∧ fetches 8 2 = true ∧ fetches 8 3 = true ∧ fetches 8 4 = true ∧
    fetches 8 5 = true ∧ fetches 8 6 = true ∧ fetches 8 7 = true := by decide

/-! ## Vectors of spec/95_test_vectors.md, section 3 -/

/-- FRAME, `c0abcdC2`: TXT is `abcd`. -/
theorem test_frame_interior :
    (after (exec .frame (loaded (bytes [0x63, 0x30, 0x61, 0x62, 0x63, 0x64, 0x43, 0x32]) []))).txt.live =
      bytes [0x61, 0x62, 0x63, 0x64] := by decide

/-- FRAME, `c0c2c` has the last pair `2c`: FrameError. -/
theorem test_frame_bad_end :
    (after (exec .frame (loaded (bytes [0x63, 0x30, 0x63, 0x32, 0x63]) []))).err = 1#3 := by decide

/-- HEXDEC, `0a1B`. -/
theorem test_hexdec_mixed_case :
    (after (exec .hexdec { State.reset with txt := buf [0x30, 0x61, 0x31, 0x42] })).raw.live = bytes [0x0A, 0x1B] := by
  decide

/-- HEXDEC, `0O`: EncodingError. -/
theorem test_hexdec_letter_o : (after (exec .hexdec { State.reset with txt := buf [0x30, 0x4F] })).err = 2#3 := by decide

/-- HEXENC, `00 0A FF`. -/
theorem test_hexenc_lowercase :
    (after (exec .hexenc { State.reset with pln := buf [0x00, 0x0A, 0xFF] })).hex.live =
      bytes [0x30, 0x30, 0x30, 0x61, 0x66, 0x66] := by decide

/-- IDEXT, `10 32 54 76 98 BA DC FE 01`. -/
theorem test_idext_little_endian :
    (after (exec .idext { State.reset with raw := buf [0x10, 0x32, 0x54, 0x76, 0x98, 0xBA, 0xDC, 0xFE, 0x01] })).idr =
      0xFEDCBA9876543210#64 := by decide

/-- IDEXT, seven bytes: FrameError. -/
theorem test_idext_seven_bytes :
    (after (exec .idext { State.reset with raw := buf [0x15, 0xCD, 0x5B, 0x07, 0, 0, 0] })).err = 1#3 := by decide

/-- DESTUFF, rows 16, 20 and 33. -/
theorem test_destuff_rows :
    (after (exec .destuff { State.reset with stf := buf [0x11, 0xC4, 0x23, 0x22, 0xC4] })).pay.live =
      bytes [0x11, 0x22, 0x22] ∧
    (after (exec .destuff { State.reset with stf := buf [0xC4, 0xC4, 0xC4, 0xC5, 0xC4] })).pay.live =
      bytes [0xC4, 0xC4] ∧
    (after (exec .destuff { State.reset with stf := buf [0xC4, 0xC5, 0xC5, 0xC5, 0x07] })).pay.live = bytes [0x06] := by
  decide

/-- DESTUFF, row 7: the wrap. -/
theorem test_destuff_wraps :
    (after (exec .destuff { State.reset with stf := buf [0xC4, 0x00] })).pay.live = bytes [0xFF] := by decide

/-- Block vector B2, and its trace after round 1. -/
theorem test_block_B2 :
    xteaDec countKey (bytes [0x00, 0x11, 0x22, 0x33, 0x44, 0x55, 0x66, 0x77]) =
      bytes [0xE1, 0x90, 0xC9, 0x37, 0x9E, 0x40, 0x45, 0x98] ∧
    xteaRound (keySplit countKey) (blockLoad (bytes [0x00, 0x11, 0x22, 0x33, 0x44, 0x55, 0x66, 0x77])) =
      { v0 := 0x3D71248E#32, v1 := 0xC04303A4#32, sum := 0x28B7BD67#32, rnd := 31#6 } := by decide +kernel

/-- Block vector B12: equal key words, top bits set. -/
theorem test_block_B12 :
    xteaDec (List.replicate 16 0x11#8) (bytes [0x80, 0, 0, 0, 0, 0, 0, 0x80]) =
      bytes [0xAA, 0x84, 0xD4, 0xC0, 0x4F, 0x86, 0x28, 0x81] := by decide +kernel

/-- TRIM, section 3.7: `000102030405abcd`. -/
theorem test_trim_drops_four :
    let hex := bytes [0x30, 0x30, 0x30, 0x31, 0x30, 0x32, 0x30, 0x33, 0x30, 0x34, 0x30, 0x35, 0x61, 0x62, 0x63, 0x64]
    let t := after (exec .trim { State.reset with hex := { live := hex, stale := [] } })
    t.outlen = 12#32 ∧ t.outbuf.readRange 0 12 =
      some (bytes [0x30, 0x30, 0x30, 0x31, 0x30, 0x32, 0x30, 0x33, 0x30, 0x34, 0x30, 0x35]) := by decide

/-- TRIM, section 3.7: `abc`, ChecksumError. -/
theorem test_trim_three : (after (exec .trim { State.reset with hex := buf [0x61, 0x62, 0x63] })).err = 5#3 := by decide

/-- H1: after reset STATUS reads 0; H2: START with nothing loaded ends in FrameError. -/
theorem test_start_with_nothing_loaded :
    statusWord State.reset = 0#32 ∧ statusWord (after (Sys2Proof.core.run 2 State.reset.withStart)) = 6#32 := by decide

/-- Vector E15: the whole command, result and STATUS. -/
theorem test_command_E15 :
    let t := after (afterCommand (loaded packetE15 asciiKey))
    statusWord t = 2#32 ∧ t.ident = 123456789#64 ∧
      t.outbuf.readRange 0 12 = some (bytes [0x30, 0x30, 0x30, 0x31, 0x30, 0x32, 0x30, 0x33, 0x30, 0x34, 0x30, 0x35]) := by
  decide +kernel

/-- R31, after START and FRAME of vector E15: the token due is the first character of TXT, `1`. -/
theorem test_first_char_token :
    let t := after (Sys2Proof.core.run 3
      { loaded packetE15 asciiKey with agenda := [.host (.write .w32 0 1#32), .engine, .token] })
    t.stage = 2#3 ∧ t.cur = 1 ∧ t.nib = 1#4 := by decide

/-- R31, after START and three stages of vector E15: the token due is the first byte of STF, 0x4C. -/
theorem test_first_stuff_token :
    let t := after (Sys2Proof.core.run 5
      { loaded packetE15 asciiKey with agenda := [.host (.write .w32 0 1#32), .engine, .engine, .engine, .token] })
    t.stage = 4#3 ∧ t.cur = 1 ∧ t.pay.live = bytes [0x4C] := by decide +kernel

/-! ## Witnesses: states and operands that meet the hypotheses of the obligations -/

/-- A running Engine in a stage, with the agenda given. -/
def inStage (code : BitVec 3) (es : List Event) : State :=
  { State.reset with busy := true, stage := code, agenda := es }

/-- A packet around raw bytes, with lowercase markers. -/
def packetOf (raw : List Nat) : List Byte := bytes [0x63, 0x30] ++ hexenc (bytes raw) ++ bytes [0x63, 0x32]

/-- The identifier bytes of 123456789 before a payload. -/
def telemetry (rest : List Nat) : List Byte := packetOf ([0x15, 0xCD, 0x5B, 0x07, 0, 0, 0, 0] ++ rest)

/-- Vector E15 at its start. -/
def atFrame : State := after (exec (.start 0#31) (loaded packetE15 asciiKey))

/-- The state of vector E15 before TRIM, with zeros for the bytes the buffers hold. -/
def atTrim : State :=
  { atFrame with
    stage := 7#3, txt := buf (List.replicate 32 0), raw := buf (List.replicate 16 0), stf := buf (List.replicate 8 0)
    pay := buf (List.replicate 8 0), pln := buf (List.replicate 8 0), hex := buf (List.replicate 16 0) }

theorem witness_DecodeEncode : WellFormed (.lit 0xC3#8) ∧ WellFormed (.lit 0xC5#8) ∧ WellFormed (.escDec 0xC3#8) ∧
    WellFormed (.escDec 0xC6#8) := by decide

theorem witness_EncodeDecode : decode .mark [0x63#8, 0x32#8] = .ok (.eofm true) ∧
    decode .stuff [0xC6#8, 1#8] = .ok (.escDec 0xC6#8) ∧
    (WellFormed (.escDec 0xC6#8) ∧ encode (.escDec 0xC6#8) = (.stuff, [0xC6#8, 1#8])) := ⟨rfl, rfl, rfl, rfl⟩

theorem witness_CharRowsAreHexDigits :
    (decodeChar 0x66#8).toOption = some .hexLcF ∧ (decodeChar 0x67#8).toOption = none := by decide

theorem witness_StepRunsStage :
    ((inStage 1#3 []).agenda = [] ∧ (inStage 1#3 []).busy = true ∧ decodeStage (inStage 1#3 []).stage = .ok .frame) ∧
    ((inStage 7#3 [.engine]).agenda = .engine :: [] ∧ (inStage 7#3 [.engine]).busy = true ∧
      decodeStage (inStage 7#3 [.engine]).stage = .ok .trim) ∧
    ((due [.engine]).agenda = .engine :: [] ∧ (due [.engine]).busy = false) :=
  ⟨⟨rfl, rfl, rfl⟩, ⟨rfl, rfl, rfl⟩, rfl, rfl⟩

/-- A FRAME state on `c0c2` with the cursor given. -/
def markerState (cur : Nat) : State :=
  { loaded (packetOf []) [] with busy := true, stage := 1#3, cur := cur, agenda := [.token] }

theorem witness_StepRunsToken_mark :
    ((markerState 0).busy = true ∧ (markerState 0).agenda = .token :: [] ∧ (markerState 0).stage = 1#3 ∧
      4 ≤ (markerState 0).inlen.toNat ∧ (markerState 0).cur = 0 ∧ (markerState 0).inbuf.read 0 = some 0x63#8 ∧
      (markerState 0).inbuf.read 1 = some 0x30#8 ∧ (decodeMark 0x63#8 0x30#8).toOption = some (.sof true)) ∧
    ((markerState 2).stage = 1#3 ∧ (markerState 2).cur + 2 = (markerState 2).inlen.toNat ∧
      (markerState 2).inbuf.read 2 = some 0x63#8 ∧ (markerState 2).inbuf.read 3 = some 0x32#8 ∧
      (decodeMark 0x63#8 0x32#8).toOption = some (.eofm true)) := by decide

theorem witness_StepRunsToken_char :
    let s : State := { inStage 2#3 [.token] with txt := buf [0x30, 0x66], cur := 1 }
    s.busy = true ∧ s.agenda = .token :: [] ∧ s.stage = 2#3 ∧ s.txt.live[s.cur]? = some 0x66#8 ∧
      (decodeChar 0x66#8).toOption = some .hexLcF := by decide

theorem witness_StepRunsToken_stuff :
    let s : State := { inStage 4#3 [.token] with stf := buf [0x11, 0xC4], cur := 1 }
    let e : State := { inStage 4#3 [.token] with stf := buf [0x11, 0xC4], cur := 2, esc := true }
    (s.busy = true ∧ s.agenda = .token :: [] ∧ s.stage = 4#3 ∧ s.stf.live[s.cur]? = some 0xC4#8) ∧
    (e.busy = true ∧ e.agenda = .token :: [] ∧ e.stage = 4#3 ∧ e.cur = e.stf.len ∧ e.esc = true) := by decide

theorem witness_StepRunsCommand :
    (due [.host (.write .w32 0 0xFFFFFFFF#32)]).agenda = .host (.write .w32 0 0xFFFFFFFF#32) :: [] ∧
    (decodeCmd 0xFFFFFFFF#32).toOption = some (.start 0x7FFFFFFF#31) ∧ (0xFFFFFFFE#32).getLsbD 0 = false := by decide

theorem witness_CharTokensComplete : (Instr.hexUcF, 15#4) ∈ charRows ∧ State.reset.cur % 2 = 0 ∧
    ({ State.reset with cur := 1 } : State).cur % 2 = 1 := by decide

theorem witness_MarkerTokensComplete :
    4 ≤ (markerState 0).inlen.toNat ∧ (markerState 0).cur = 0 ∧ 4 ≤ (markerState 2).inlen.toNat ∧
      (markerState 2).cur + 2 = (markerState 2).inlen.toNat := by decide

theorem witness_MisplacedMarkerIsFrameError :
    ({ State.reset with inlen := 3#32 } : State).inlen.toNat < 4 ∧ (markerState 1).cur ≠ 0 ∧
      (markerState 1).cur + 2 ≠ (markerState 1).inlen.toNat := by decide

theorem witness_HexText : HexText (bytes [0x30, 0x46]) ∧ HexText [] := by unfold HexText; decide

theorem witness_HexdecRunsItsTokens : HexText ({ State.reset with txt := buf [0x30, 0x46] } : State).txt.live :=
  witness_HexText.1

theorem witness_HexdecCompletes : HexText ({ State.reset with txt := buf [0x30, 0x46] } : State).txt.live :=
  witness_HexText.1

theorem witness_HexdecRejects :
    (buf [0x30]).len % 2 = 1 ∧ (∃ c ∈ (buf [0x30, 0x67]).live, hexval c = none) := by decide

/-- Inside the launch premise at its boundaries: no packet and no key; a full INBUF; a written key. -/
theorem witness_StartAccepted :
    LaunchPremise State.reset ∧ LaunchPremise { loaded packetE15 asciiKey with inCap := 36 } ∧
      LaunchPremise (loaded packetE15 []) := by unfold LaunchPremise; decide

theorem witness_StartIgnoredOrRefused :
    (inStage 1#3 []).busy = true ∧
    (State.reset.busy = false ∧ ({ State.reset with inlen := 4097#32 } : State).inCap <
      ({ State.reset with inlen := 4097#32 } : State).inlen.toNat) ∧
    (({ State.reset with inlen := 1#32 } : State).inlen.toNat ≤ State.reset.inCap ∧
      ∃ i, i < ({ State.reset with inlen := 1#32 } : State).inlen.toNat ∧ State.reset.inbuf.read i = none) ∧
    (({ State.reset with keylen := 16#32 } : State).keylen = 16#32 ∧ ∃ i, i < 16 ∧ State.reset.keybuf.read i = none) := by
  decide

theorem witness_FrameAccepts :
    (loaded (packetOf []) []).packet = some (packetOf []) ∧
    (loaded (packetOf []) []).inlen.toNat ≤ (loaded (packetOf []) []).inCap ∧ GoodMarkers (packetOf []) ∧
    GoodMarkers (bytes [0x43, 0x30, 0x7A, 0x43, 0x32]) := by unfold GoodMarkers; decide

theorem witness_FrameRejects :
    (loaded (bytes [0x63, 0x30, 0x63]) []).packet = some (bytes [0x63, 0x30, 0x63]) ∧
    (loaded (bytes [0x63, 0x30, 0x63]) []).inlen.toNat ≤ (loaded (bytes [0x63, 0x30, 0x63]) []).inCap ∧
    ¬ GoodMarkers (bytes [0x63, 0x30, 0x63]) ∧ ¬ GoodMarkers (bytes [0x63, 0x30, 0x63, 0x30]) ∧
    ¬ GoodMarkers (bytes [0x63, 0x32, 0x63, 0x32]) := by unfold GoodMarkers; decide

theorem witness_IdextCompletes : (buf [0, 0, 0, 0, 0, 0, 0, 0x80]).live =
    0#8 :: 0#8 :: 0#8 :: 0#8 :: 0#8 :: 0#8 :: 0#8 :: 0x80#8 :: [] := by decide

theorem witness_IdextRejects : (buf [0x15, 0xCD, 0x5B, 0x07, 0, 0, 0]).len < 8 ∧ ¬ (buf [0, 0, 0, 0, 0, 0, 0, 0]).len < 8 := by
  decide

theorem witness_CodecLossless : HexText (bytes [0x30, 0x41, 0x31, 0x62]) := by unfold HexText; decide

/-- The three inputs that give an empty PAY, and one that keeps its length. -/
theorem witness_DestuffLengths :
    (∃ t, exec .destuff { State.reset with stf := buf [0xC4] } = .next t) ∧
    (∃ t, exec .destuff { State.reset with stf := buf [0xC4, 0xC5] } = .next t) ∧
    (∃ t, exec .destuff { State.reset with stf := buf [0xC4, 0xC5, 0xC5] } = .next t) ∧
    (∃ t, exec .destuff { State.reset with stf := buf [0xC5] } = .next t) := ⟨⟨_, rfl⟩, ⟨_, rfl⟩, ⟨_, rfl⟩, ⟨_, rfl⟩⟩

theorem witness_DestuffEqualsInplace :
    ({ State.reset with stf := buf [0xC4, 0xC5, 0xC4] } : State).stf.live = bytes [0xC4, 0xC5, 0xC4] ∧
    ∃ t, exec .destuff { State.reset with stf := buf [0xC4, 0xC5, 0xC4] } = .next t := ⟨rfl, _, rfl⟩

/-- A CIPHER state with a payload of `n` bytes under a key. -/
def cipherState (n : Nat) (key : List Byte) : State :=
  { loaded [] key with pay := { live := List.replicate n 0#8, stale := [] } }

theorem witness_CipherCompletes :
    (cipherState 8 countKey).keylen = 16#32 ∧ (cipherState 8 countKey).key = some countKey ∧
      (cipherState 8 countKey).pay.len % 8 = 0 ∧ (cipherState 8 countKey).pay.len ≠ 0 ∧
      (cipherState 0 countKey).pay.len % 8 = 0 := by decide

theorem witness_CipherWithoutChunks : (cipherState 0 []).pay.len = 0 := by decide

theorem witness_CipherKeyError :
    (cipherState 1 (countKey.take 15)).pay.len ≠ 0 ∧ (cipherState 1 (countKey.take 15)).keylen ≠ 16#32 ∧
    (cipherState 8 (0#8 :: countKey)).pay.len ≠ 0 ∧ (cipherState 8 (0#8 :: countKey)).keylen ≠ 16#32 := by decide

theorem witness_CipherBlockError :
    (cipherState 7 countKey).keylen = 16#32 ∧ (cipherState 7 countKey).key = some countKey ∧
      (cipherState 7 countKey).pay.len % 8 ≠ 0 ∧ (cipherState 9 countKey).key = some countKey ∧
      (cipherState 9 countKey).pay.len % 8 ≠ 0 := by decide

theorem witness_SumSchedule : (32 : Nat) ≤ 32 ∧ keyIndices[0]? = some (2, 3) ∧ keyIndices[31]? = some (3, 0) := by decide

theorem witness_DecryptIsABijection : countKey.length = 16 ∧ (countKey.take 8).length = 8 := by decide

theorem witness_BlocksAreIndependent : countKey.length % 8 = 0 ∧ (countKey.take 8).length = 8 := by decide

/-- The least text that TRIM accepts, and one that fills an OUTBUF of 36 cells. -/
theorem witness_TrimCompletes :
    let s : State := { State.reset with hex := buf [0x61, 0x62, 0x63, 0x64] }
    let full : State := { State.reset with hex := { live := List.replicate 40 0x30#8, stale := [] }, inCap := 36 }
    (4 ≤ s.hex.len ∧ s.hex.len - 4 ≤ Config.outCap s.inCap) ∧
    (4 ≤ full.hex.len ∧ full.hex.len - 4 = Config.outCap full.inCap) := by decide

theorem witness_TrimRejects : (buf [0x61, 0x62, 0x63]).len < 4 ∧ ¬ (buf [0x61, 0x62, 0x63, 0x64]).len < 4 := by decide

theorem witness_TrimNeverReadsTheChecksum :
    let s : State := { State.reset with hex := buf [0x30, 0x61, 0x62, 0x63, 0x64] }
    (bytes [0x61, 0x62, 0x63, 0x64]).length = 4 ∧ (bytes [0x30, 0x30, 0x30, 0x30]).length = 4 ∧
      s.hex.live = bytes [0x30] ++ bytes [0x61, 0x62, 0x63, 0x64] ∧ ∃ t, exec .trim s = .next t :=
  ⟨rfl, rfl, rfl, _, rfl⟩

/-- One instruction for each error code. -/
theorem witness_ErrorsFollowTheMatrix :
    State.reset.err = 0#3 ∧ (after (exec .frame State.reset)).err = 1#3 ∧ (after (exec .idext State.reset)).err = 1#3 ∧
    (after (exec (.sof true) State.reset)).err = 1#3 ∧
    (after (exec .hexdec { State.reset with txt := buf [0x30] })).err = 2#3 ∧
    (after (exec .cipher (cipherState 1 []))).err = 3#3 ∧ (after (exec .cipher (cipherState 1 countKey))).err = 4#3 ∧
    (after (exec .trim State.reset)).err = 5#3 := by decide

theorem witness_InstructionsKeepTheInputs :
    (∃ t, exec .trim atTrim = .next t) ∧ ∃ t, exec .hexenc State.reset = .next t := ⟨⟨_, rfl⟩, _, rfl⟩

theorem witness_RegisterReads :
    let s := due [.host (.read .w32 0x1C)]
    (0x1C, s.ident.extractLsb' 32 32) ∈ [(0x00, 0#32), (0x04, statusWord s), (0x08, s.inlen), (0x0C, s.keylen),
      (0x10, s.outlen), (0x14, 0#32), (0x18, s.ident.extractLsb' 0 32), (0x1C, s.ident.extractLsb' 32 32)] ∧
    s.agenda = .host (.read .w32 0x1C) :: [] := by decide

/-- Both ends of KEYBUF, the last cell of INBUF, and OUTBUF on both sides of OUTLEN. -/
theorem witness_CellReads :
    let done : State := { due [.host (.read .w8 (Config.outBase 4096 + 1))] with done := true, outlen := 2#32 }
    (15 < 16 ∧ (due [.host (.read .w8 (0x20 + 15))]).agenda = .host (.read .w8 (0x20 + 15)) :: []) ∧
    (4095 < State.reset.inCap ∧ (due [.host (.read .w8 (0x1000 + 4095))]).agenda =
      .host (.read .w8 (0x1000 + 4095)) :: []) ∧
    (1 < Config.outCap done.inCap ∧ done.agenda = .host (.read .w8 (Config.outBase done.inCap + 1)) :: [] ∧
      done.done = true ∧ 1 < done.outlen.toNat) ∧
    (2 < Config.outCap done.inCap ∧ done.outlen.toNat ≤ 2 ∧ State.reset.done = false) := by decide

theorem witness_ReservedOffsets :
    (∀ off ∈ [0x14, 0x17, 0x30, 0xFFF, 0x1024, 0x1FFF, 0x2024], ReservedOffset 36 off) ∧
    (∀ off ∈ [0x13, 0x18, 0x2F, 0x1000, 0x1023, 0x2000, 0x2023], ¬ ReservedOffset 36 off) := by
  unfold ReservedOffset; decide

theorem witness_BadAccessRefused :
    (∀ off ∈ [0x00, 0x13, 0x18, 0x1F], ¬ LegalAccess 36 .w8 off) ∧
    (∀ off ∈ [0x02, 0x15, 0x20, 0x2C, 0x1000, 0x1020, 0x2000, 0x2020], ¬ LegalAccess 36 .w32 off) ∧
    ¬ LegalAccess 36 .other 0x00 := by
  simp only [← Laws.accessOk_iff]; decide

theorem witness_HostWritesTakeEffect :
    State.reset.busy = false ∧ (due [.host (.write .w32 0x08 5#32)]).agenda = .host (.write .w32 0x08 5#32) :: [] ∧
    (due [.host (.write .w32 0x0C 5#32)]).agenda = .host (.write .w32 0x0C 5#32) :: [] ∧
    (15 < 16 ∧ (due [.host (.write .w8 (0x20 + 15) 5#32)]).agenda = .host (.write .w8 (0x20 + 15) 5#32) :: []) ∧
    (4095 < State.reset.inCap ∧ (due [.host (.write .w8 (0x1000 + 4095) 5#32)]).agenda =
      .host (.write .w8 (0x1000 + 4095) 5#32) :: []) := by decide

/-- While busy a write to CTRL; at any time one to IDENT and one to each end of OUTBUF. -/
theorem witness_IgnoredWrites :
    (LegalAccess 36 .w32 0x00 ∧ (inStage 1#3 []).busy = true) ∧
    (LegalAccess 36 .w32 0x1C ∧ 0x1C ∈ [0x04, 0x10, 0x18, 0x1C]) ∧
    (LegalAccess 36 .w8 0x2000 ∧ Config.outBase 36 ≤ 0x2000 ∧ 0x2000 < Config.outBase 36 + Config.outCap 36) ∧
    (LegalAccess 36 .w8 0x2023 ∧ 0x2023 < Config.outBase 36 + Config.outCap 36) ∧
    (inStage 1#3 [.host (.write .w32 0x00 1#32)]).agenda = .host (.write .w32 0x00 1#32) :: [] := by
  simp only [← Laws.accessOk_iff]; decide

theorem witness_ResetFromAnyState : (inStage 5#3 [.reset]).agenda = .reset :: [] ∧ (inStage 5#3 [.reset]).busy = true :=
  ⟨rfl, rfl⟩

/-- The invariant holds when vector E15 has started. -/
theorem witness_inv_atFrame : Inv atFrame :=
  ⟨by decide, ⟨by decide, by decide, by decide, by decide, by decide, by decide⟩,
    ⟨by decide, by decide, by decide, by decide, by decide, by decide⟩,
    ⟨by decide, by decide, by decide, by decide, by decide, by decide, by decide⟩, ⟨by decide, by decide⟩⟩

/-- The invariant holds before its TRIM. -/
theorem witness_inv_atTrim : Inv atTrim :=
  ⟨by decide, ⟨by decide, by decide, by decide, by decide, by decide, by decide⟩,
    ⟨by decide, by decide, by decide, by decide, by decide, by decide⟩,
    ⟨by decide, by decide, by decide, by decide, by decide, by decide, by decide⟩, ⟨by decide, by decide⟩⟩

theorem witness_InvariantKept : Inv atFrame ∧ ∃ t, step atFrame = .next t := ⟨witness_inv_atFrame, _, rfl⟩

theorem witness_FlagInvariantsKept : FlagsOk atFrame ∧ ∃ t, step atFrame = .next t :=
  ⟨witness_inv_atFrame.flags, _, rfl⟩

theorem witness_EngineNeverStops : (Inv atFrame ∧ atFrame.busy = true) ∧ Inv atTrim ∧ atTrim.busy = true :=
  ⟨⟨witness_inv_atFrame, rfl⟩, witness_inv_atTrim, rfl⟩

theorem witness_StepNeverFaults : Inv atTrim := witness_inv_atTrim

theorem witness_StageOrder : (∃ t, step atFrame = .next t) ∧ (∃ t, step atTrim = .next t) ∧
    (∃ t, step (markerState 0) = .next t) ∧ ∃ t, step State.reset.withStart = .next t :=
  ⟨⟨_, rfl⟩, ⟨_, rfl⟩, ⟨_, rfl⟩, _, rfl⟩

theorem witness_CommandComputesDecode :
    LaunchPremise (loaded packetE15 asciiKey) ∧ HoldsInputs (loaded packetE15 asciiKey) packetE15 asciiKey ∧
    LaunchPremise (loaded [] []) ∧ HoldsInputs (loaded [] []) [] [] := by unfold LaunchPremise HoldsInputs; decide

/-- Host moves among just seven turns of the Engine: a read of STATUS, writes that are ignored, a second START. -/
theorem witness_CommandComputesDecode_between :
    let es : List Event := [.host (.read .w32 0x04), .engine, .host (.write .w8 0x1000 0x7A#32), .engine, .engine,
      .host (.write .w32 0x00 1#32), .engine, .engine, .engine, .host (.read .w8 0x2000), .engine]
    (∀ e ∈ es, RunningEvent 4096 e) ∧ 7 ≤ es.count .engine := by
  refine ⟨?_, by decide⟩
  intro e he
  simp only [List.mem_cons, List.not_mem_nil, or_false] at he
  rcases he with rfl | rfl | rfl | rfl | rfl | rfl | rfl | rfl | rfl | rfl | rfl <;>
    simp only [RunningEvent, ← Laws.accessOk_iff] <;> decide

/-- The datapath after a load, for the clause on the store. -/
theorem witness_LittleEndianRoundTrip :
    let c := blockLoad (bytes [1, 2, 3, 4, 5, 6, 7, 8])
    c.v0 = 4#8 ++ 3#8 ++ 2#8 ++ 1#8 ∧ c.v1 = 8#8 ++ 7#8 ++ 6#8 ++ 5#8 := by decide

theorem witness_CommandTerminates :
    LaunchPremise (loaded packetE15 asciiKey) ∧ ∃ u, exec (.start 0#31) (loaded packetE15 asciiKey) = .next u :=
  ⟨witness_CommandComputesDecode.1, _, rfl⟩

/-- Two states with the same inputs and different residue. -/
theorem witness_CommandsAreStateless :
    let s1 := loaded packetE15 asciiKey
    let s2 : State := { s1 with esc := true, cur := 7, pay := buf [1], outbuf := [(0, 0x41#8)], done := true }
    s1 ≠ s2 ∧ LaunchPremise s1 ∧ LaunchPremise s2 ∧ s1.inlen = s2.inlen ∧ s1.packet = s2.packet ∧
      s1.keylen = s2.keylen ∧ s1.keylen = 16#32 ∧ s1.key = s2.key := by unfold LaunchPremise; decide

/-- PAY of a packet, as the statement on R215 writes it. -/
def payOf (pkt : List Byte) : List Byte :=
  ds false (((hexdec ((pkt.drop 2).take (pkt.length - 4))).getD []).drop 8)

/-- The interior of the packet has hex digits only. -/
def hexInside (pkt : List Byte) : Bool := ((pkt.drop 2).take (pkt.length - 4)).all fun c => (hexval c).isSome

/-- R215 row 1: `c0c`. -/
theorem witness_OutcomeTable_row1 : ¬ GoodMarkers (bytes [0x63, 0x30, 0x63]) := by unfold GoodMarkers; decide

/-- R215 row 2: `c0ac2` is odd, `c0zzc2` has other characters. -/
theorem witness_OutcomeTable_row2 :
    (GoodMarkers (bytes [0x63, 0x30, 0x61, 0x63, 0x32]) ∧ (bytes [0x63, 0x30, 0x61, 0x63, 0x32]).length % 2 = 1) ∧
    (GoodMarkers (bytes [0x63, 0x30, 0x7A, 0x7A, 0x63, 0x32]) ∧
      hexInside (bytes [0x63, 0x30, 0x7A, 0x7A, 0x63, 0x32]) = false) := by unfold GoodMarkers; decide

/-- R215 row 3: 18 characters. -/
theorem witness_OutcomeTable_row3 :
    GoodMarkers (packetOf [0, 0, 0, 0, 0, 0, 0]) ∧ (packetOf [0, 0, 0, 0, 0, 0, 0]).length = 18 ∧
      hexInside (packetOf [0, 0, 0, 0, 0, 0, 0]) = true := by unfold GoodMarkers; decide

/-- R215 row 4: 20 characters, no payload. -/
theorem witness_OutcomeTable_row4 :
    GoodMarkers (telemetry []) ∧ (telemetry []).length = 20 ∧ hexInside (telemetry []) = true ∧
      payOf (telemetry []) = [] := by unfold GoodMarkers; decide

/-- R215 rows 5 and 6: one payload byte, under 15 and under 16 key bytes. -/
theorem witness_OutcomeTable_row5_row6 :
    GoodMarkers (telemetry [0xAA]) ∧ hexInside (telemetry [0xAA]) = true ∧ (telemetry [0xAA]).length = 22 ∧
      payOf (telemetry [0xAA]) ≠ [] ∧ (countKey.take 15).length ≠ 16 ∧ countKey.length = 16 ∧
      (payOf (telemetry [0xAA])).length % 8 ≠ 0 := by unfold GoodMarkers; decide

/-- R215 row 7: vector E15. -/
theorem witness_OutcomeTable_row7 :
    GoodMarkers packetE15 ∧ hexInside packetE15 = true ∧ packetE15.length = 36 ∧ payOf packetE15 ≠ [] ∧
      asciiKey.length = 16 ∧ (payOf packetE15).length % 8 = 0 := by unfold GoodMarkers; decide +kernel

/-- Vector E15 has the least length that succeeds. -/
theorem witness_SuccessShape :
    (decodePacket packetE15 asciiKey).toOption = some
      ⟨123456789#64, bytes [0x30, 0x30, 0x30, 0x31, 0x30, 0x32, 0x30, 0x33, 0x30, 0x34, 0x30, 0x35]⟩ := by decide +kernel

theorem witness_WrongKeyIsNotDetected :
    asciiKey.length = 16 ∧ countKey.length = 16 ∧ (decodePacket packetE15 asciiKey).toOption.isSome = true := by
  decide +kernel

end Sys2Proof.Tests
end

section
/-! SUPPORT. The Engine's own work, stage by stage: what an instruction can touch, and what it can end in. -/

namespace Sys2Proof.StateProofs

open Sys2Proof Sys2Proof.Machine Sys2Proof.Laws

/-! ## What the Engine keeps while it works -/

/-- `t` differs from `s` at most in the Engine's own registers (STAGE, CUR, ESC, the stage buffers, IDR, K, the
datapath) and in the model's own fields: every host-visible register, flag and buffer is as before. -/
structure EngineWork (s t : State) : Prop where
  busy : t.busy = s.busy
  done : t.done = s.done
  err : t.err = s.err
  inlen : t.inlen = s.inlen
  keylen : t.keylen = s.keylen
  outlen : t.outlen = s.outlen
  ident : t.ident = s.ident
  inbuf : t.inbuf = s.inbuf
  keybuf : t.keybuf = s.keybuf
  outbuf : t.outbuf = s.outbuf
  inCap : t.inCap = s.inCap

namespace EngineWork

/-- Writing the Engine's own registers and the model's own fields is the Engine's work. -/
theorem of_registers (s : State) (stage : BitVec 3) (cur : Nat) (esc : Bool) (txt raw stf pay pln hex : Buffer)
    (idr : DWord) (k : KeyWords) (cip : Cip) (nib : Nibble) (rdata : Word) (free : Nat) (agenda : List Event) :
    EngineWork s { s with
      stage := stage, cur := cur, esc := esc, txt := txt, raw := raw, stf := stf, pay := pay, pln := pln, hex := hex,
      idr := idr, k := k, cip := cip, nib := nib, rdata := rdata, free := free, agenda := agenda } := by
  constructor <;> rfl

theorem trans {s t u : State} (h : EngineWork s t) (h' : EngineWork t u) : EngineWork s u :=
  ⟨h'.busy.trans h.busy, h'.done.trans h.done, h'.err.trans h.err, h'.inlen.trans h.inlen, h'.keylen.trans h.keylen,
    h'.outlen.trans h.outlen, h'.ident.trans h.ident, h'.inbuf.trans h.inbuf, h'.keybuf.trans h.keybuf,
    h'.outbuf.trans h.outbuf, h'.inCap.trans h.inCap⟩

theorem packet {s t : State} (h : EngineWork s t) : t.packet = s.packet := by
  unfold State.packet; rw [h.inbuf, h.inlen]

theorem key {s t : State} (h : EngineWork s t) : t.key = s.key := by
  unfold State.key; rw [h.keybuf]

end EngineWork

/-! ## The loops of HEXDEC, DESTUFF and CIPHER -/

/-- A hex text has one nibble per character. -/
theorem hexvals_length {text : List Byte} {digits : List Nibble} (h : hexvals text = some digits) :
    digits.length = text.length := by
  induction text generalizing digits with
  | nil => cases h; rfl
  | cons c cs ih =>
    simp only [hexvals] at h
    split at h
    · rename_i d ds _ hds; cases h; simp [ih hds]
    · cases h

@[simp] theorem emit_len (b : Buffer) (v : Byte) : (b.emit v).len = b.len + 1 := by
  simp [Buffer.len]

@[simp] theorem append_len (b : Buffer) (xs : List Byte) : (b.append xs).len = b.len + xs.length := by
  simp [Buffer.len]

/-- HEXDEC's pass over its nibbles touches RAW, the held nibble and the cursor only, and completes a byte at every
second character. -/
theorem foldl_takeNibble (digits : List Nibble) (s : State) :
    ∃ raw nib cur, digits.foldl State.takeNibble s = { s with raw := raw, nib := nib, cur := cur } ∧
      raw.len = s.raw.len + (s.cur % 2 + digits.length) / 2 := by
  induction digits generalizing s with
  | nil => exact ⟨_, _, _, rfl, by rw [List.length_nil]; omega⟩
  | cons d ds ih =>
    obtain ⟨raw, nib, cur, hfold, hlen⟩ := ih (s.takeNibble d)
    rw [List.foldl_cons, hfold, List.length_cons]
    obtain ⟨heven, htake⟩ | ⟨hodd, htake⟩ := takeNibble_cases s d <;> rw [htake] at hlen ⊢
    · exact ⟨raw, nib, cur, rfl, by dsimp only at hlen; omega⟩
    · exact ⟨raw, nib, cur, rfl, by simp only [emit_len] at hlen; omega⟩

/-- A byte of STF touches PAY, ESC and the cursor only, and appends at most one byte. -/
theorem destuffByte_effect (s : State) (n : Byte) :
    ∃ pay esc, destuffByte s n = { s with pay := pay, esc := esc, cur := s.cur + 1 } ∧ pay.len ≤ s.pay.len + 1 := by
  obtain ⟨_, _, h⟩ | ⟨_, _, h⟩ | ⟨_, _, h⟩ | ⟨_, _, h⟩ | ⟨_, _, _, h⟩ := destuffByte_cases s n <;>
    exact ⟨_, _, h, by simp⟩

/-- DESTUFF's pass over its bytes emits at most one byte for each (R162). -/
theorem foldl_destuffByte (bytes : List Byte) (s : State) :
    ∃ pay esc cur, bytes.foldl destuffByte s = { s with pay := pay, esc := esc, cur := cur } ∧
      pay.len ≤ s.pay.len + bytes.length := by
  induction bytes generalizing s with
  | nil => exact ⟨_, _, _, rfl, by simp⟩
  | cons n ns ih =>
    obtain ⟨pay₁, esc₁, hbyte, hlen₁⟩ := destuffByte_effect s n
    obtain ⟨pay, esc, cur, hfold, hlen⟩ := ih (destuffByte s n)
    rw [hbyte] at hlen
    refine ⟨pay, esc, cur, by rw [List.foldl_cons, hfold, hbyte], ?_⟩
    simp only [List.length_cons] at hlen ⊢
    omega

/-- CIPHER's loop touches PLN, the key words, the datapath and the cursor; when it reaches the end every chunk was a
whole block and PLN has grown by one block per chunk. -/
theorem cipherLoop_next {cs : List (List Byte)} {s t : State} (h : cipherLoop cs s = .next t) :
    ∃ k cip pln cur, (∃ e, t = ({ s with k := k, cip := cip, pln := pln, cur := cur } : State).raise e) ∨
      (t = ({ s with k := k, cip := cip, pln := pln, cur := cur } : State).goto 6#3 ∧
        (∀ c ∈ cs, c.length = 8) ∧ pln.len = s.pln.len + 8 * cs.length) := by
  induction cs generalizing s with
  | nil => cases h; exact ⟨_, _, _, _, .inr ⟨rfl, by simp, rfl⟩⟩
  | cons chunk rest ih =>
    obtain ⟨_, hl⟩ | ⟨_, _, hl⟩ | ⟨_, _, _, hl⟩ | ⟨key, _, hchunk, _, hl⟩ := cipherLoop_cons chunk rest s <;> rw [hl] at h
    · cases h; exact ⟨_, _, _, _, .inl ⟨_, rfl⟩⟩
    · cases h; exact ⟨_, _, _, _, .inl ⟨_, rfl⟩⟩
    · cases h
    · obtain ⟨k, cip, pln, cur, ⟨e, rfl⟩ | ⟨rfl, hall, hlen⟩⟩ := ih h
      · exact ⟨k, cip, pln, cur, .inl ⟨e, rfl⟩⟩
      · refine ⟨k, cip, pln, cur, .inr ⟨rfl, by simpa [hchunk] using hall, ?_⟩⟩
        simp only [decryptChunk_pln, append_len, blockStore_length, List.length_cons] at hlen ⊢; omega

/-- If every chunk is a whole block, the chunks hold as many bytes as were cut. -/
theorem length_of_whole_chunks {bs : List Byte} (h : ∀ c ∈ chunks bs, c.length = 8) :
    bs.length = 8 * (chunks bs).length := by
  induction hn : bs.length using Nat.strong_induction_on generalizing bs with
  | h n ih =>
    by_cases hbs : bs = []
    · subst hbs; simpa using hn.symm
    · rw [chunks_cons hbs] at h ⊢
      obtain ⟨hhead, htail⟩ := List.forall_mem_cons.1 h
      rw [List.length_take] at hhead
      have := ih (bs.drop 8).length (by rw [List.length_drop]; omega) htail rfl
      rw [List.length_drop] at this
      rw [List.length_cons]; omega

/-- HEXENC writes two characters per byte (R130). -/
theorem hexenc_length (bs : List Byte) : (hexenc bs).length = 2 * bs.length := by
  induction bs with
  | nil => rfl
  | cons b bs ih =>
    simp only [hexenc, hexPair, List.cons_append, List.nil_append, List.length_cons, ih]; omega

/-! ## How a stage ends -/

/-- The ends of the stage operation with the given code: an error, the next stage with the lengths of R64 in order, or,
for TRIM, the result. -/
inductive StageEnds (s : State) (code : BitVec 3) : State → Prop
  | raised (u : State) (e : ErrorKind) (work : EngineWork s u) : StageEnds s code (u.raise e)
  | advanced (t : State) (work : EngineWork s t) (notLast : code ≠ 7#3) (stage : t.stage = code + 1#3)
      (cur : t.cur = 0) (lengths : s.stage = code → LengthsOk s → LengthsOk t) : StageEnds s code t
  | trimmed (last : code = 7#3) (room : s.hex.len - 4 ≤ s.inCap) : StageEnds s code s.trimmed

/-- A stage that only rewinds the cursor before its error. -/
theorem StageEnds.rejected (s : State) (code : BitVec 3) (e : ErrorKind) : StageEnds s code (s.enter.raise e) :=
  .raised _ e (.of_registers ..)

theorem execFrame_ends {s t : State} (h : execFrame s = .next t) : StageEnds s 1#3 t := by
  obtain hf | ⟨interior, hread, hmin, hf⟩ | ⟨_, hf⟩ | hf := execFrame_cases s <;> rw [hf] at h <;> cases h
  · exact .rejected s _ _
  · refine .advanced _ (.of_registers ..) (by decide) rfl rfl fun _ hl => ?_
    have hlen := readRange_length hread
    refine ⟨hl.inlen, fun _ _ => ?_, by simp, by simp, by simp, by simp, by simp⟩
    simp only [framed_txt, load_len, framed_inlen]; omega

theorem execHexdec_ends {s t : State} (h : execHexdec s = .next t) : StageEnds s 2#3 t := by
  obtain hf | ⟨digits, heven, hdigits, hf⟩ := execHexdec_cases s <;> rw [hf] at h <;> cases h
  · exact .rejected s _ _
  · obtain ⟨raw, nib, cur, hfold, hraw⟩ := foldl_takeNibble digits { s with raw := s.raw.clear, cur := 0 }
    rw [hfold]
    refine .advanced _ (.of_registers ..) (by decide) rfl rfl fun hs hl => ?_
    have hlen : digits.length = s.txt.len := hexvals_length hdigits
    refine ⟨hl.inlen, fun hb _ => hl.txt hb (by simp [hs]), fun _ _ => ?_, by simp, by simp, by simp, by simp⟩
    simp only [clear_len, Nat.zero_mod, zero_add, goto_raw, goto_txt] at hraw ⊢; omega

theorem execIdext_ends {s t : State} (h : execIdext s = .next t) : StageEnds s 3#3 t := by
  obtain ⟨_, hf⟩ | ⟨hmin, hf⟩ := execIdext_cases s <;> rw [hf] at h <;> cases h
  · exact .rejected s _ _
  · refine .advanced _ (.of_registers ..) (by decide) rfl rfl fun hs hl => ?_
    refine ⟨hl.inlen, fun hb _ => hl.txt hb (by simp [hs]), fun hb _ => hl.raw hb (by simp [hs]), fun _ _ => ?_,
      by simp, by simp, by simp⟩
    simp only [Buffer.len, goto_stf, load_live, List.length_drop, goto_raw] at hmin ⊢; omega

theorem execDestuff_ends {s t : State} (h : execDestuff s = .next t) : StageEnds s 4#3 t := by
  obtain ⟨pay, esc, cur, hfold, hpay⟩ := foldl_destuffByte s.stf.live { s with pay := s.pay.clear, esc := false, cur := 0 }
  have hloop : destuffLoop s = { s with pay := pay, esc := esc, cur := cur } := hfold
  have ht : t = ({ s with pay := pay, esc := false, cur := cur } : State).goto 5#3 := by
    unfold execDestuff at h
    rw [hloop] at h
    cases esc <;> cases h <;> rfl
  subst ht
  refine .advanced _ (.of_registers ..) (by decide) rfl rfl fun hs hl => ?_
  refine ⟨hl.inlen, fun hb _ => hl.txt hb (by simp [hs]), fun hb _ => hl.raw hb (by simp [hs]),
    fun hb _ => hl.stf hb (by simp [hs]), fun _ _ => ?_, by simp, by simp⟩
  simpa [Buffer.len] using hpay

theorem execCipher_ends {s t : State} (h : execCipher s = .next t) : StageEnds s 5#3 t := by
  obtain ⟨k, cip, pln, cur, ⟨e, rfl⟩ | ⟨rfl, hwhole, hpln⟩⟩ := cipherLoop_next h
  · exact .raised _ e (.of_registers ..)
  · refine .advanced _ (.of_registers ..) (by decide) rfl rfl fun hs hl => ?_
    have hpay : s.pay.len = 8 * (chunks s.pay.live).length := length_of_whole_chunks hwhole
    refine ⟨hl.inlen, fun hb _ => hl.txt hb (by simp [hs]), fun hb _ => hl.raw hb (by simp [hs]),
      fun hb _ => hl.stf hb (by simp [hs]), fun hb _ => hl.pay hb (by simp [hs]), fun _ _ => ?_, by simp⟩
    simp only [clear_len, zero_add, goto_pln, goto_pay] at hpln ⊢; omega

theorem execHexenc_ends {s t : State} (h : execHexenc s = .next t) : StageEnds s 6#3 t := by
  cases h
  refine .advanced _ (.of_registers ..) (by decide) rfl rfl fun hs hl => ?_
  exact ⟨hl.inlen, fun hb _ => hl.txt hb (by simp [hs]), fun hb _ => hl.raw hb (by simp [hs]),
    fun hb _ => hl.stf hb (by simp [hs]), fun hb _ => hl.pay hb (by simp [hs]), fun hb _ => hl.pln hb (by simp [hs]),
    fun _ _ => by simp [hexenc_length, Buffer.len]⟩

theorem execTrim_ends {s t : State} (h : execTrim s = .next t) : StageEnds s 7#3 t := by
  obtain ⟨_, hf⟩ | ⟨_, _, hf⟩ | ⟨_, hroom, hf⟩ := execTrim_cases s <;> rw [hf] at h <;> cases h
  · exact .rejected s _ _
  · exact .trimmed rfl hroom

/-- The stage operation a code names ends in one of the ways of `StageEnds`. -/
theorem exec_stage_ends {code : BitVec 3} {i : Instr} {s t : State} (hd : decodeStage code = .ok i)
    (h : exec i s = .next t) : StageEnds s code t := by
  obtain ⟨hc, rfl⟩ | ⟨hc, rfl⟩ | ⟨hc, rfl⟩ | ⟨hc, rfl⟩ | ⟨hc, rfl⟩ | ⟨hc, rfl⟩ | ⟨hc, rfl⟩ :=
    stage_codes (s := s.inStage code) hd <;> simp only [inStage_stage] at hc <;> subst hc
  · exact execFrame_ends h
  · exact execHexdec_ends h
  · exact execIdext_ends h
  · exact execDestuff_ends h
  · exact execCipher_ends h
  · exact execHexenc_ends h
  · exact execTrim_ends h

/-! ## What an instruction does, row group by row group -/

theorem exec_start (ignored : BitVec 31) (s : State) : exec (.start ignored) s = execStart ignored s := rfl

/-- Every row of the opcode table takes a nibble, checks a marker, handles a stuffed byte, is START or is a stage. -/
theorem exec_cases (i : Instr) (s : State) :
    (∃ d, exec i s = .next (s.takeNibble d)) ∨ (∃ p, exec i s = .next (s.takeMarker p)) ∨
    (∃ pay esc cur, exec i s = .next { s with pay := pay, esc := esc, cur := cur }) ∨
    (∃ ignored, i = .start ignored) ∨ ∃ code, decodeStage code = .ok i := by
  cases i with
  | hex0 | hex1 | hex2 | hex3 | hex4 | hex5 | hex6 | hex7 | hex8 | hex9
  | hexUcA | hexUcB | hexUcC | hexUcD | hexUcE | hexUcF
  | hexLcA | hexLcB | hexLcC | hexLcD | hexLcE | hexLcF => exact .inl ⟨_, rfl⟩
  | sof | eofm => exact .inr (.inl ⟨_, rfl⟩)
  | lit | escOpen | escSelf | escDec | escChain | escEnd => exact .inr (.inr (.inl ⟨_, _, _, rfl⟩))
  | start ignored => exact .inr (.inr (.inr (.inl ⟨ignored, rfl⟩)))
  | frame => exact .inr (.inr (.inr (.inr ⟨1#3, rfl⟩)))
  | hexdec => exact .inr (.inr (.inr (.inr ⟨2#3, rfl⟩)))
  | idext => exact .inr (.inr (.inr (.inr ⟨3#3, rfl⟩)))
  | destuff => exact .inr (.inr (.inr (.inr ⟨4#3, rfl⟩)))
  | cipher => exact .inr (.inr (.inr (.inr ⟨5#3, rfl⟩)))
  | hexenc => exact .inr (.inr (.inr (.inr ⟨6#3, rfl⟩)))
  | trim => exact .inr (.inr (.inr (.inr ⟨7#3, rfl⟩)))

end Sys2Proof.StateProofs
end

section
/-! SUPPORT. What a step does, event by event. -/

namespace Sys2Proof.StateProofs

open Sys2Proof Sys2Proof.Machine Sys2Proof.Laws

/-! ## The Engine's event -/

/-- The Engine stays in its stage: at most a token is taken. The cursor does not fall, and the lengths of R64 that the
stages before have fixed stay fixed. -/
structure StaysInStage (s t : State) : Prop where
  work : EngineWork s t
  stage : t.stage = s.stage
  cur : s.cur ≤ t.cur
  lengths : LengthsOk s → LengthsOk t

/-- A host read, or an event that does nothing, writes the model's own fields only. -/
theorem StaysInStage.of_ownFields (s : State) (rdata : Word) (free : Nat) (agenda : List Event) :
    StaysInStage s { s with rdata := rdata, free := free, agenda := agenda } :=
  ⟨.of_registers .., rfl, Nat.le_refl _, fun h => ⟨h.inlen, h.txt, h.raw, h.stf, h.pay, h.pln, h.hex⟩⟩

theorem StaysInStage.trans {s t u : State} (h : StaysInStage s t) (h' : StaysInStage t u) : StaysInStage s u :=
  ⟨h.work.trans h'.work, h'.stage.trans h.stage, h.cur.trans h'.cur, fun hl => h'.lengths (h.lengths hl)⟩

/-- What a turn of the Engine, whole or by one token, can do. -/
inductive EngineMove (s : State) : State → Prop
  | stays (t : State) (quiet : StaysInStage s t) : EngineMove s t
  | raised (u : State) (e : ErrorKind) (running : s.busy = true) (work : EngineWork s u) : EngineMove s (u.raise e)
  | advanced (t : State) (running : s.busy = true) (work : EngineWork s t) (notLast : s.stage ≠ 7#3)
      (stage : t.stage = s.stage + 1#3) (cur : t.cur = 0) (lengths : LengthsOk s → LengthsOk t) : EngineMove s t
  | trimmed (agenda : List Event) (running : s.busy = true) (last : s.stage = 7#3)
      (room : s.hex.len - 4 ≤ s.inCap) : EngineMove s (State.trimmed { s with agenda := agenda })

/-- The agenda plays no part in what the Engine does. -/
theorem EngineMove.of_agenda {s t : State} {rest : List Event} (h : EngineMove { s with agenda := rest } t) :
    EngineMove s t := by
  have own : StaysInStage s { s with agenda := rest } := .of_ownFields s s.rdata s.free rest
  cases h with
  | stays _ quiet => exact .stays t (own.trans quiet)
  | raised u e running work => exact .raised u e running (own.work.trans work)
  | advanced _ running work notLast stage cur lengths =>
    exact .advanced t running (own.work.trans work) notLast stage cur fun hl => lengths (own.lengths hl)
  | trimmed agenda running last room => exact .trimmed agenda running last room

theorem engineStep_move {s t : State} (h : engineStep s = .next t) : EngineMove s t := by
  have stutter : EngineMove s s := .stays s (.of_ownFields s s.rdata s.free s.agenda)
  cases hb : s.busy with
  | false => rw [engineStep_idle hb] at h; cases h; exact stutter
  | true =>
    cases hd : decodeStage s.stage with
    | error => simp only [engineStep, hb, hd, if_true] at h; cases h; exact stutter
    | ok i =>
      rw [engineStep_busy hb hd] at h
      cases exec_stage_ends hd h with
      | raised u e work => exact .raised u e hb work
      | advanced _ work notLast stage cur lengths => exact .advanced t hb work notLast stage cur (lengths rfl)
      | trimmed last room => exact .trimmed s.agenda hb last room

/-- A byte of STF moves the cursor up, under either value of ESC. -/
theorem exec_decodeStuff (e : Bool) (n : Byte) (s : State) :
    ∃ pay esc, exec (decodeStuff e n) s = .next { s with pay := pay, esc := esc, cur := s.cur + 1 } := by
  unfold decodeStuff
  repeat' split
  all_goals exact ⟨_, _, rfl⟩

/-- In DESTUFF the token is a byte of STF under ESC, or the end of STF. -/
theorem fetchToken_destuff_cases {s : State} {i : Instr} (hs : s.stage = 4#3) (h : fetchToken s = some i) :
    (∃ n, i = decodeStuff s.esc n) ∨ i = .escEnd := by
  simp only [fetchToken, hs, show ¬ (4#3 : BitVec 3) = 1#3 by decide, show ¬ (4#3 : BitVec 3) = 2#3 by decide,
    if_false, if_true] at h
  split at h
  · cases h; exact .inl ⟨_, rfl⟩
  · split at h
    · cases h; exact .inr rfl
    · cases h

/-- A token of DESTUFF touches PAY, ESC and the cursor, which does not fall. -/
theorem exec_destuff_token {s : State} {i : Instr} (hs : s.stage = 4#3) (h : fetchToken s = some i) :
    ∃ pay esc cur, exec i s = .next { s with pay := pay, esc := esc, cur := cur } ∧ s.cur ≤ cur := by
  obtain ⟨n, rfl⟩ | rfl := fetchToken_destuff_cases hs h
  · obtain ⟨pay, esc, he⟩ := exec_decodeStuff s.esc n s
    exact ⟨pay, esc, _, he, Nat.le_succ _⟩
  · exact ⟨_, _, _, rfl, Nat.le_refl _⟩

theorem takeMarker_move {s : State} (hb : s.busy = true) (position : Nat) : EngineMove s (s.takeMarker position) := by
  obtain ⟨_, _, h⟩ | ⟨_, h⟩ := takeMarker_cases s position <;> rw [h]
  · exact .stays _ ⟨.of_registers .., rfl, Nat.le_add_right _ _,
      fun hl => ⟨hl.inlen, hl.txt, hl.raw, hl.stf, hl.pay, hl.pln, hl.hex⟩⟩
  · exact .raised s .frame hb (.of_registers ..)

theorem takeNibble_move {s : State} (hs : s.stage = 2#3) (d : Nibble) : EngineMove s (s.takeNibble d) := by
  obtain ⟨_, h⟩ | ⟨_, h⟩ := takeNibble_cases s d <;> rw [h] <;>
    refine .stays _ ⟨.of_registers .., rfl, Nat.le_succ _, fun hl => ?_⟩
  · exact ⟨hl.inlen, hl.txt, hl.raw, hl.stf, hl.pay, hl.pln, hl.hex⟩
  · exact ⟨hl.inlen, hl.txt, by simp [hs], by simp [hs], hl.pay, hl.pln, hl.hex⟩

theorem tokenStep_move {s t : State} (h : tokenStep s = .next t) : EngineMove s t := by
  unfold tokenStep at h
  split at h
  · rename_i hb
    split at h
    · rename_i i hi
      obtain ⟨_, p, he⟩ | ⟨hs, d, he⟩ | ⟨hs, _⟩ := token_cases hi
      · rw [he] at h; cases h; exact takeMarker_move hb p
      · rw [he] at h; cases h; exact takeNibble_move hs d
      · obtain ⟨pay, esc, cur, he, hcur⟩ := exec_destuff_token hs hi
        rw [he] at h; cases h
        exact .stays _ ⟨.of_registers .., rfl, hcur,
          fun hl => ⟨hl.inlen, hl.txt, hl.raw, hl.stf, by simp [hs], by simp [hs], hl.hex⟩⟩
    · exact engineStep_move h
  · cases h; exact .stays s (.of_ownFields s s.rdata s.free s.agenda)

/-! ## The host's events -/

theorem hostRead_stays {w : Width} {off : Nat} {s t : State} (h : hostRead w off s = .next t) : StaysInStage s t := by
  obtain ⟨_, hr⟩ | ⟨v, _, _, hr⟩ | ⟨_, _, hr⟩ := hostRead_cases w off s <;> rw [hr] at h <;> cases h
  · exact .of_ownFields s v s.free s.agenda
  · exact .of_ownFields s _ _ s.agenda

/-- CTRL is reached by the aligned 32-bit access to offset 0 and by no other. -/
theorem access_ctrl {c : Nat} {w : Width} {off : Nat} (hok : accessOk c w off = true) (hp : place c off = .ctrl) :
    w = .w32 ∧ off = 0 := by
  have hoff : off < 4 := by
    obtain ⟨h, _⟩ | h := place_cases c off
    · exact h
    · simp [hp] at h
  cases w <;> simp [accessOk, hp] at hok
  exact ⟨rfl, by omega⟩

/-- Everything a host write can do that completes: nothing, an accepted START, or a write to a place of the map. -/
theorem hostWrite_next {w : Width} {off : Nat} {v : Word} {s t : State} (h : hostWrite w off v s = .next t) :
    t = s ∨
    (w = .w32 ∧ off = 0 ∧ v.getLsbD 0 = true ∧ LaunchPremise s ∧ t = s.accept) ∨
    (s.busy = false ∧ t = writePlace s v (place s.inCap off)) := by
  obtain ⟨_, hw⟩ | ⟨i, hok, hp, hd, hw⟩ | ⟨_, _, _, hw⟩ | ⟨_, _, _, hw⟩ | ⟨_, _, hb, hw⟩ := hostWrite_cases w off v s <;>
    rw [hw] at h
  · cases h
  · obtain ⟨rfl, rfl⟩ := access_ctrl hok hp
    obtain rfl := decodeCmd_ok hd
    have hv : v.getLsbD 0 = true := by
      by_contra hv; simp only [decodeCmd, if_neg hv, reduceCtorEq] at hd
    rw [exec_start] at h
    obtain ⟨_, he⟩ | ⟨_, _, he⟩ | ⟨_, _, _, he⟩ | ⟨hb, hcap, hpkt, hkey, he⟩ := execStart_cases (v.extractLsb' 1 31) s <;>
      rw [he] at h <;> cases h
    · exact .inl rfl
    · exact .inr (.inl ⟨rfl, rfl, hv, ⟨hb, hcap, hpkt, hkey⟩, rfl⟩)
  · cases h; exact .inl rfl
  · cases h; exact .inl rfl
  · cases h; exact .inr (.inr ⟨hb, rfl⟩)

/-! ## A step -/

/-- What a step can do, by the event that is due. -/
inductive Transition (s : State) : State → Prop
  | engine (t : State) (due : EngineDue s) (move : EngineMove s t) : Transition s t
  | quiet (t : State) (h : StaysInStage s t) : Transition s t
  | reset (rest : List Event) (due : s.agenda = .reset :: rest) :
      Transition s (State.toReset { s with agenda := rest })
  | start (v : Word) (rest : List Event) (due : s.agenda = .host (.write .w32 0 v) :: rest) (bit : v.getLsbD 0 = true)
      (premise : LaunchPremise s) : Transition s (State.accept { s with agenda := rest })
  | write (v : Word) (off : Nat) (rest : List Event) (idle : s.busy = false) :
      Transition s (writePlace { s with agenda := rest } v (place s.inCap off))

/-- Every step that completes is one of these transitions. -/
theorem step_transition {s t : State} (h : step s = .next t) : Transition s t := by
  cases ha : s.agenda with
  | nil => rw [step_empty ha] at h; exact .engine t (.inl ha) (engineStep_move h)
  | cons ev rest =>
    have own : StaysInStage s { s with agenda := rest } := .of_ownFields s s.rdata s.free rest
    match ev with
    | .engine =>
      rw [step_engine ha] at h
      exact .engine t (.inr ⟨rest, .inl ha⟩) (engineStep_move h).of_agenda
    | .token =>
      rw [step_token ha] at h
      exact .engine t (.inr ⟨rest, .inr ha⟩) (tokenStep_move h).of_agenda
    | .reset => rw [step_reset ha] at h; cases h; exact .reset rest ha
    | .host (.read w off) =>
      rw [step_read ha] at h
      exact .quiet t (own.trans (hostRead_stays h))
    | .host (.write w off v) =>
      rw [step_write ha] at h
      obtain rfl | ⟨rfl, rfl, hv, hl, rfl⟩ | ⟨hb, rfl⟩ := hostWrite_next h
      · exact .quiet _ own
      · exact .start v rest ha hv hl
      · exact .write v off rest hb

end Sys2Proof.StateProofs
end

section
/-! SUPPORT. The invariants, kept by every transition. -/

namespace Sys2Proof.StateProofs

open Sys2Proof Sys2Proof.Machine Sys2Proof.Laws

/-! ## What a host write leaves unchanged -/

section writePlace

variable (s : State) (v : Word) (p : Place)

@[simp] theorem writePlace_busy : (writePlace s v p).busy = s.busy := by cases p <;> rfl
@[simp] theorem writePlace_done : (writePlace s v p).done = s.done := by cases p <;> rfl
@[simp] theorem writePlace_err : (writePlace s v p).err = s.err := by cases p <;> rfl
@[simp] theorem writePlace_outlen : (writePlace s v p).outlen = s.outlen := by cases p <;> rfl
@[simp] theorem writePlace_ident : (writePlace s v p).ident = s.ident := by cases p <;> rfl
@[simp] theorem writePlace_stage : (writePlace s v p).stage = s.stage := by cases p <;> rfl
@[simp] theorem writePlace_outbuf : (writePlace s v p).outbuf = s.outbuf := by cases p <;> rfl
@[simp] theorem writePlace_inCap : (writePlace s v p).inCap = s.inCap := by cases p <;> rfl

end writePlace

/-- A place of KEYBUF is a cell of KEYBUF. -/
theorem place_keybuf_lt {c off i : Nat} (h : place c off = .keybuf i) : i < 16 := by
  have := place_cases c off
  rw [h] at this
  simp only [reduceCtorEq, Place.keybuf.injEq, and_false, false_or, or_false] at this
  omega

/-- A place of INBUF is a cell of INBUF. -/
theorem place_inbuf_lt {c off i : Nat} (h : place c off = .inbuf i) : i < c := by
  have := place_cases c off
  rw [h] at this
  simp only [reduceCtorEq, Place.inbuf.injEq, and_false, false_or, or_false] at this
  omega

/-! ## The flags (R35) -/

/-- The flag invariants speak of six registers, and of STAGE only whether it is IDLE. -/
theorem flagsOk_congr {s t : State} (h : FlagsOk s) (busy : t.busy = s.busy) (done : t.done = s.done)
    (err : t.err = s.err) (outlen : t.outlen = s.outlen) (ident : t.ident = s.ident)
    (stage : t.stage ≠ 0#3 ↔ s.stage ≠ 0#3) : FlagsOk t := by
  constructor <;> simp only [busy, done, err, outlen, ident, stage]
  exacts [h.busy_clear, h.err_done, h.busy_iff, h.failed_result, h.busy_result, h.err_legal]

theorem flagsOk_of_work {s t : State} (h : FlagsOk s) (w : EngineWork s t) (stage : t.stage ≠ 0#3 ↔ s.stage ≠ 0#3) :
    FlagsOk t :=
  flagsOk_congr h w.busy w.done w.err w.outlen w.ident stage

/-- Every error code is one of R220's five. -/
theorem errorCode_legal (e : ErrorKind) : (errorCode e).toNat ≤ 5 := by cases e <;> decide

/-- An error leaves the flags in order, whatever they were. -/
theorem flagsOk_raise (s : State) (e : ErrorKind) : FlagsOk (s.raise e) where
  busy_clear := by simp
  err_done := by simp
  busy_iff := by simp
  failed_result := by simp
  busy_result := by simp
  err_legal := errorCode_legal e

theorem flagsOk_trimmed (s : State) : FlagsOk s.trimmed := by constructor <;> simp

theorem flagsOk_accept (s : State) : FlagsOk s.accept := by constructor <;> simp

theorem flagsOk_reset : FlagsOk State.reset := by constructor <;> simp [State.reset]

/-- The code after a stage's own is never IDLE, TRIM's aside. -/
theorem stage_succ_ne_idle {c : BitVec 3} (h : c ≠ 7#3) : c + 1#3 ≠ 0#3 := by
  revert c; decide

theorem EngineMove.flagsOk {s t : State} (move : EngineMove s t) (h : FlagsOk s) : FlagsOk t := by
  cases move with
  | stays _ quiet => exact flagsOk_of_work h quiet.work (by rw [quiet.stage])
  | raised u e => exact flagsOk_raise u e
  | advanced _ running work notLast stage =>
    refine flagsOk_of_work h work (iff_of_true ?_ (h.busy_iff.1 running))
    rw [stage]; exact stage_succ_ne_idle notLast
  | trimmed => exact flagsOk_trimmed _

theorem Transition.flagsOk {s t : State} (tr : Transition s t) (h : FlagsOk s) : FlagsOk t := by
  cases tr with
  | engine _ _ move => exact move.flagsOk h
  | quiet _ stays => exact flagsOk_of_work h stays.work (by rw [stays.stage])
  | reset rest => exact flagsOk_congr flagsOk_reset rfl rfl rfl rfl rfl Iff.rfl
  | start => exact flagsOk_accept _
  | write v off rest => apply flagsOk_congr h <;> simp

/-! ## The memories -/

/-- The memories' invariant speaks of the three buffers and the capacity only. -/
theorem memoriesOk_congr {s t : State} (h : MemoriesOk s) (inbuf : t.inbuf = s.inbuf) (keybuf : t.keybuf = s.keybuf)
    (outbuf : t.outbuf = s.outbuf) (inCap : t.inCap = s.inCap) : MemoriesOk t := by
  constructor <;> simp only [inbuf, keybuf, outbuf, inCap]
  exacts [h.inbuf_wf, h.keybuf_wf, h.outbuf_wf, h.inbuf_below, h.keybuf_below, h.outbuf_below]

theorem memoriesOk_of_work {s t : State} (h : MemoriesOk s) (w : EngineWork s t) : MemoriesOk t :=
  memoriesOk_congr h w.inbuf w.keybuf w.outbuf w.inCap

/-- A result that fits OUTBUF keeps OUTBUF in form. -/
theorem memoriesOk_trimmed {s : State} (h : MemoriesOk s) (room : s.hex.len - 4 ≤ s.inCap) : MemoriesOk s.trimmed where
  inbuf_wf := h.inbuf_wf
  keybuf_wf := h.keybuf_wf
  outbuf_wf := writeRange_wf 0 _ h.outbuf_wf
  inbuf_below := h.inbuf_below
  keybuf_below := h.keybuf_below
  outbuf_below := writeRange_below (show 0 + (s.hex.live.take (s.hex.len - 4)).length ≤ s.inCap by
    rw [List.length_take]; omega) h.outbuf_below

/-- A host write stores below the end of its buffer. -/
theorem memoriesOk_writePlace {s : State} (h : MemoriesOk s) (v : Word) (off : Nat) :
    MemoriesOk (writePlace s v (place s.inCap off)) := by
  cases hp : place s.inCap off with
  | keybuf i =>
    exact ⟨h.inbuf_wf, write_wf i _ h.keybuf_wf, h.outbuf_wf, h.inbuf_below,
      write_below _ (place_keybuf_lt hp) h.keybuf_below, h.outbuf_below⟩
  | inbuf i =>
    exact ⟨write_wf i _ h.inbuf_wf, h.keybuf_wf, h.outbuf_wf, write_below _ (place_inbuf_lt hp) h.inbuf_below,
      h.keybuf_below, h.outbuf_below⟩
  | ctrl | status | inlen | keylen | outlen | identLo | identHi | outbuf | reserved =>
    exact memoriesOk_congr h rfl rfl rfl rfl

theorem memoriesOk_toReset (s : State) : MemoriesOk s.toReset := ⟨rfl, rfl, rfl, rfl, rfl, rfl⟩

theorem EngineMove.memoriesOk {s t : State} (move : EngineMove s t) (h : MemoriesOk s) : MemoriesOk t := by
  cases move with
  | stays _ quiet => exact memoriesOk_of_work h quiet.work
  | raised u e _ work => exact memoriesOk_congr (memoriesOk_of_work h work) rfl rfl rfl rfl
  | advanced _ _ work => exact memoriesOk_of_work h work
  | trimmed agenda _ _ room => exact memoriesOk_trimmed (memoriesOk_congr h rfl rfl rfl rfl) room

theorem Transition.memoriesOk {s t : State} (tr : Transition s t) (h : MemoriesOk s) : MemoriesOk t := by
  cases tr with
  | engine _ _ move => exact move.memoriesOk h
  | quiet _ stays => exact memoriesOk_of_work h stays.work
  | reset rest => exact memoriesOk_toReset _
  | start => exact memoriesOk_congr h rfl rfl rfl rfl
  | write v off rest =>
    exact memoriesOk_writePlace (s := { s with agenda := rest }) (memoriesOk_congr h rfl rfl rfl rfl) v off

/-! ## The lengths (R64) and the inputs (R253) -/

/-- While no command runs the lengths are not constrained. -/
theorem lengthsOk_of_idle {t : State} (h : t.busy = false) : LengthsOk t := by
  constructor <;> simp [h]

/-- While no command runs the inputs are not constrained. -/
theorem inputsOk_of_idle {t : State} (h : t.busy = false) : InputsOk t := by
  constructor <;> simp [h]

/-- At FRAME only the packet's own length is constrained. -/
theorem lengthsOk_accept {s : State} (h : LaunchPremise s) : LengthsOk s.accept :=
  ⟨fun _ => h.2.1, by simp, by simp, by simp, by simp, by simp, by simp⟩

/-- The launch premise is what a running command needs of its inputs. -/
theorem inputsOk_accept {s : State} (h : LaunchPremise s) : InputsOk s.accept :=
  ⟨fun _ => h.2.2.1, fun _ => h.2.2.2⟩

theorem inputsOk_of_work {s t : State} (h : InputsOk s) (w : EngineWork s t) : InputsOk t := by
  constructor <;> simp only [w.busy, w.keylen, w.packet, w.key]
  exacts [h.packet, h.key]

theorem EngineMove.lengthsOk {s t : State} (move : EngineMove s t) (h : LengthsOk s) : LengthsOk t := by
  cases move with
  | stays _ quiet => exact quiet.lengths h
  | raised | trimmed => exact lengthsOk_of_idle rfl
  | advanced _ _ _ _ _ _ lengths => exact lengths h

theorem EngineMove.inputsOk {s t : State} (move : EngineMove s t) (h : InputsOk s) : InputsOk t := by
  cases move with
  | stays _ quiet => exact inputsOk_of_work h quiet.work
  | raised | trimmed => exact inputsOk_of_idle rfl
  | advanced _ _ work => exact inputsOk_of_work h work

theorem Transition.lengthsOk {s t : State} (tr : Transition s t) (h : LengthsOk s) : LengthsOk t := by
  cases tr with
  | engine _ _ move => exact move.lengthsOk h
  | quiet _ stays => exact stays.lengths h
  | reset => exact lengthsOk_of_idle rfl
  | start v rest _ _ premise => exact lengthsOk_accept (s := { s with agenda := rest }) premise
  | write v off rest idle => exact lengthsOk_of_idle (by simpa using idle)

theorem Transition.inputsOk {s t : State} (tr : Transition s t) (h : InputsOk s) : InputsOk t := by
  cases tr with
  | engine _ _ move => exact move.inputsOk h
  | quiet _ stays => exact inputsOk_of_work h stays.work
  | reset => exact inputsOk_of_idle rfl
  | start v rest _ _ premise => exact inputsOk_accept (s := { s with agenda := rest }) premise
  | write v off rest idle => exact inputsOk_of_idle (by simpa using idle)

/-! ## The capacity, and the whole invariant -/

theorem EngineMove.inCap {s t : State} (move : EngineMove s t) : t.inCap = s.inCap := by
  cases move with
  | stays _ quiet => exact quiet.work.inCap
  | raised _ _ _ work => exact work.inCap
  | advanced _ _ work => exact work.inCap
  | trimmed => rfl

/-- No step changes IN_CAP. -/
theorem Transition.inCap {s t : State} (tr : Transition s t) : t.inCap = s.inCap := by
  cases tr with
  | engine _ _ move => exact move.inCap
  | quiet _ stays => exact stays.work.inCap
  | reset | start => rfl
  | write => simp

theorem Transition.inv {s t : State} (tr : Transition s t) (h : Inv s) : Inv t where
  capacity := tr.inCap ▸ h.capacity
  flags := tr.flagsOk h.flags
  memories := tr.memoriesOk h.memories
  lengths := tr.lengthsOk h.lengths
  inputs := tr.inputsOk h.inputs

/-- Settles O50: every transition keeps each part of the invariant. -/
theorem invariantKept : Obligations.InvariantKept := fun _ _ h hstep => (step_transition hstep).inv h

/-- Settles O51. -/
theorem flagInvariantsKept : Obligations.FlagInvariantsKept :=
  ⟨flagsOk_reset, fun _ _ h hstep => (step_transition hstep).flagsOk h⟩

/-- Settles O49. -/
theorem invariantAtReset : Obligations.InvariantAtReset where
  capacity := by decide
  flags := flagsOk_reset
  memories := memoriesOk_toReset State.reset
  lengths := lengthsOk_of_idle rfl
  inputs := inputsOk_of_idle rfl

/-! ## The order of the stages -/

/-- Every error has a code other than 0 (R220). -/
theorem errorCode_ne_zero (e : ErrorKind) : errorCode e ≠ 0#3 := by cases e <;> decide

/-- Settles O54: one clause of the statement per transition. -/
theorem stageOrder : Obligations.StageOrder := by
  intro s t hstep
  cases step_transition hstep with
  | engine _ due move =>
    cases move with
    | stays _ quiet => exact .inl ⟨quiet.stage, fun _ _ => quiet.cur⟩
    | raised u e running => exact .inr (.inr (.inr (.inl ⟨due, running, rfl, rfl, rfl, errorCode_ne_zero e⟩)))
    | advanced _ running work notLast stage cur =>
      exact .inr (.inl ⟨due, running, work.busy.trans running, stage, stage ▸ stage_succ_ne_idle notLast, cur⟩)
    | trimmed _ running last => exact .inr (.inr (.inl ⟨due, running, last, rfl, rfl, rfl, rfl⟩))
  | quiet _ stays => exact .inl ⟨stays.stage, fun _ _ => stays.cur⟩
  | reset rest due => exact .inr (.inr (.inr (.inr (.inl ⟨rfl, rest, due⟩))))
  | start v rest due bit premise =>
    exact .inr (.inr (.inr (.inr (.inr ⟨premise.1, rfl, rfl, rfl, v, rest, due, bit⟩))))
  | write v off rest idle => exact .inl ⟨by simp, by simp [idle]⟩

/-! ## The inputs of an instruction -/

theorem takeNibble_work (s : State) (d : Nibble) : EngineWork s (s.takeNibble d) := by
  obtain ⟨_, h⟩ | ⟨_, h⟩ := takeNibble_cases s d <;> rw [h] <;> exact .of_registers ..

/-- Settles O40, row group by row group. -/
theorem instructionsKeepTheInputs : Obligations.InstructionsKeepTheInputs := by
  intro i s t h
  have kept {u : State} (w : EngineWork s u) : u.inbuf = s.inbuf ∧ u.inlen = s.inlen ∧ u.keybuf = s.keybuf ∧
      u.keylen = s.keylen ∧ u.inCap = s.inCap ∧ (i ≠ .trim → u.outbuf = s.outbuf) :=
    ⟨w.inbuf, w.inlen, w.keybuf, w.keylen, w.inCap, fun _ => w.outbuf⟩
  obtain ⟨d, he⟩ | ⟨p, he⟩ | ⟨pay, esc, cur, he⟩ | ⟨ignored, rfl⟩ | ⟨code, hd⟩ := exec_cases i s
  · rw [he] at h; cases h
    exact kept (takeNibble_work s d)
  · rw [he] at h; cases h
    obtain ⟨_, _, hm⟩ | ⟨_, hm⟩ := takeMarker_cases s p <;> rw [hm]
    · exact kept (.of_registers ..)
    · simp
  · rw [he] at h; cases h; exact kept (.of_registers ..)
  · rw [exec_start] at h
    obtain ⟨_, he⟩ | ⟨_, _, he⟩ | ⟨_, _, _, he⟩ | ⟨_, _, _, _, he⟩ := execStart_cases ignored s <;> rw [he] at h <;>
      cases h <;> simp
  · cases exec_stage_ends hd h with
    | raised u e work => exact kept (u := u) work
    | advanced _ work => exact kept work
    | trimmed last =>
      subst last; cases hd; simp

end Sys2Proof.StateProofs
end

section
/-! SUPPORT. The event of a step in terms of what it reads or executes, and the moves of the host port. -/

namespace Sys2Proof.StateProofs

open Sys2Proof Sys2Proof.Machine Sys2Proof.Laws

/-! ## A step runs the stage, or the token at the cursor -/

/-- With no event due, or a turn of the Engine due, a step is the Engine's turn. -/
theorem step_eq_engineStep {s : State} {rest : List Event}
    (h : s.agenda = [] ∧ rest = [] ∨ s.agenda = .engine :: rest) : step s = engineStep { s with agenda := rest } := by
  obtain ⟨ha, rfl⟩ | ha := h
  · rw [step_empty ha, ← ha]
  · exact step_engine ha

/-- Settles O5. -/
theorem stepRunsStage : Obligations.StepRunsStage := by
  intro s rest h
  rw [step_eq_engineStep h]
  exact ⟨fun i hb hd => engineStep_busy (s := { s with agenda := rest }) hb hd,
    fun hb => engineStep_idle (s := { s with agenda := rest }) hb⟩

/-- The close look of a running Engine executes the token that is fetched. -/
theorem tokenStep_of_fetch {s : State} {i : Instr} (hb : s.busy = true) (h : fetchToken s = some i) :
    tokenStep s = exec i s := by
  simp only [tokenStep, hb, h, if_true]

/-- The agenda plays no part in the fetch. -/
theorem step_token_of_fetch {s : State} {rest : List Event} {i : Instr} (hb : s.busy = true)
    (ha : s.agenda = .token :: rest) (h : fetchToken s = some i) : step s = exec i { s with agenda := rest } := by
  rw [step_token ha]
  exact tokenStep_of_fetch (s := { s with agenda := rest }) hb h

/-- Two cells that hold values read as a pair. -/
theorem readRange_two {m : Memory} {i : Nat} {a b : Byte} (ha : m.read i = some a) (hb : m.read (i + 1) = some b) :
    m.readRange i 2 = some [a, b] := by
  simp [Memory.readRange, ha, hb]

/-- In FRAME a marker pair is fetched at both ends of the packet. -/
theorem fetchToken_frame {s : State} {a b : Byte} {i : Instr} (hs : s.stage = 1#3) (hmin : 4 ≤ s.inlen.toNat)
    (hpos : s.cur = 0 ∨ s.cur + 2 = s.inlen.toNat) (ha : s.inbuf.read s.cur = some a)
    (hb : s.inbuf.read (s.cur + 1) = some b) (hd : decodeMark a b = .ok i) : fetchToken s = some i := by
  have hfetch : Config.minLen ≤ s.inlen.toNat ∧ (s.cur = 0 ∨ s.cur + 2 = s.inlen.toNat) := ⟨hmin, hpos⟩
  simp only [fetchToken, hs, if_true, if_pos hfetch, readRange_two ha hb, hd, Except.toOption]

/-- In HEXDEC the character at the cursor is fetched. -/
theorem fetchToken_hexdec {s : State} {c : Byte} {i : Instr} (hs : s.stage = 2#3) (hc : s.txt.live[s.cur]? = some c)
    (hd : decodeChar c = .ok i) : fetchToken s = some i := by
  simp [fetchToken, hs, hc, hd, Except.toOption]

/-- In DESTUFF the byte at the cursor is fetched under ESC. -/
theorem fetchToken_destuff {s : State} {n : Byte} (hs : s.stage = 4#3) (hn : s.stf.live[s.cur]? = some n) :
    fetchToken s = some (decodeStuff s.esc n) := by
  simp [fetchToken, hs, hn]

/-- In DESTUFF the end of STF is fetched if an escape is open. -/
theorem fetchToken_destuff_end {s : State} (hs : s.stage = 4#3) (hend : s.cur = s.stf.len) (he : s.esc = true) :
    fetchToken s = some .escEnd := by
  have hn : s.stf.live[s.cur]? = none := List.getElem?_eq_none (Nat.le_of_eq hend.symm)
  rw [hend] at hn
  simp [fetchToken, hs, hn, hend, he]

/-- Settles O6: each clause is the fetch of one token format. -/
theorem stepRunsToken : Obligations.StepRunsToken := by
  intro s rest hb ha
  refine ⟨fun a b i hs hmin hpos ha' hb' hd => ?_, fun c i hs hc hd => ?_, fun n hs hn => ?_, fun hs hend he => ?_⟩
  · exact step_token_of_fetch hb ha (fetchToken_frame hs hmin hpos ha' hb' hd)
  · exact step_token_of_fetch hb ha (fetchToken_hexdec hs hc hd)
  · exact step_token_of_fetch hb ha (fetchToken_destuff hs hn)
  · exact step_token_of_fetch hb ha (fetchToken_destuff_end hs hend he)

/-! ## The fields of STATUS -/

/-- The layout of R41 for every value of the three fields. -/
theorem statusWord_layout : ∀ (err : BitVec 3) (done busy : Bool),
    let w : Word := 0#27 ++ err ++ BitVec.ofBool done ++ BitVec.ofBool busy
    w.getLsbD 0 = busy ∧ w.getLsbD 1 = done ∧ w.extractLsb' 2 3 = err ∧ w.extractLsb' 5 27 = 0#27 := by decide

/-- Settles O41. -/
theorem statusFields : Obligations.StatusFields := fun s =>
  let ⟨hbusy, hdone, herr, hzero⟩ := statusWord_layout s.err s.done s.busy
  ⟨hbusy, hdone, herr, hzero, rfl⟩

/-! ## Host reads -/

/-- What a place reads as does not depend on the agenda. -/
theorem readPlace_agenda (s : State) (rest : List Event) (p : Place) :
    readPlace { s with agenda := rest } p = readPlace s p := rfl

/-- A defined read of a place with a value completes with that value. -/
theorem step_read_value {s : State} {w : Width} {off : Nat} {rest : List Event} {v : Word}
    (ha : s.agenda = .host (.read w off) :: rest) (hl : LegalAccess s.inCap w off)
    (hv : readPlace s (place s.inCap off) = some v) : step s = .next (readsWord s rest v) := by
  rw [step_read ha]
  have hok := (accessOk_iff ..).2 hl
  simp only [hostRead, hok, readPlace_agenda, hv, if_true]; rfl

/-- A defined read of a place without a value completes with a free value. -/
theorem step_read_free {s : State} {w : Width} {off : Nat} {rest : List Event}
    (ha : s.agenda = .host (.read w off) :: rest) (hl : LegalAccess s.inCap w off)
    (hv : readPlace s (place s.inCap off) = none) : step s = .next (readsCell s rest none) := by
  rw [step_read ha]
  have hok := (accessOk_iff ..).2 hl
  simp only [hostRead, hok, readPlace_agenda, hv, if_true]; rfl

/-- A defined read of a cell completes with the cell, whether or not it holds a value. -/
theorem step_read_cell {s : State} {w : Width} {off : Nat} {rest : List Event} {cell : Option Byte}
    (ha : s.agenda = .host (.read w off) :: rest) (hl : LegalAccess s.inCap w off)
    (hv : readPlace s (place s.inCap off) = cell.map (BitVec.zeroExtend 32)) :
    step s = .next (readsCell s rest cell) := by
  cases cell with
  | none => exact step_read_free ha hl hv
  | some b => exact step_read_value ha hl hv

/-- The aligned 32-bit access to a register offset is defined. -/
theorem legalAccess_register {c off : Nat} (halign : off % 4 = 0) (hoff : off < 0x20) : LegalAccess c .w32 off :=
  .inl ⟨rfl, halign, .inl hoff⟩

theorem legalAccess_keybuf {c i : Nat} (h : i < 16) : LegalAccess c .w8 (0x20 + i) :=
  .inr ⟨rfl, .inl (by omega)⟩

theorem legalAccess_inbuf {c i : Nat} (h : i < c) : LegalAccess c .w8 (0x1000 + i) :=
  .inr ⟨rfl, .inr (.inl (by omega))⟩

theorem legalAccess_outbuf {c i : Nat} (h : i < Config.outCap c) : LegalAccess c .w8 (Config.outBase c + i) :=
  .inr ⟨rfl, .inr (.inr (.inl (by omega)))⟩

theorem legalAccess_reserved {c off : Nat} {w : Width} (h : ReservedOffset c off)
    (hw : w = .w8 ∨ (w = .w32 ∧ off % 4 = 0)) : LegalAccess c w off := by
  obtain rfl | ⟨rfl, halign⟩ := hw
  · exact .inr ⟨rfl, .inr (.inr (.inr h))⟩
  · exact .inl ⟨rfl, halign, .inr h⟩

/-- Settles O42: the map names a register at each of the eight offsets, and a read of it gives its value. -/
theorem registerReads : Obligations.RegisterReads := by
  intro s rest off v hmem ha
  simp only [List.mem_cons, Prod.mk.injEq, List.not_mem_nil, or_false] at hmem
  obtain ⟨rfl, rfl⟩ | ⟨rfl, rfl⟩ | ⟨rfl, rfl⟩ | ⟨rfl, rfl⟩ | ⟨rfl, rfl⟩ | ⟨rfl, rfl⟩ | ⟨rfl, rfl⟩ | ⟨rfl, rfl⟩ := hmem <;>
    exact step_read_value ha (legalAccess_register (by decide) (by decide)) rfl

/-- Settles O43. -/
theorem cellReads : Obligations.CellReads := by
  intro s rest i
  refine ⟨fun hi ha => ?_, fun hi ha => ?_, fun hi ha hdone hlen => ?_, fun hi ha hno => ?_⟩
  · exact step_read_cell ha (legalAccess_keybuf hi) (by rw [place_keybuf _ hi]; rfl)
  · exact step_read_cell ha (legalAccess_inbuf hi) (by rw [place_inbuf hi]; rfl)
  · exact step_read_cell ha (legalAccess_outbuf hi) (by rw [place_outbuf hi]; simp [readPlace, hdone, hlen])
  · refine step_read_free ha (legalAccess_outbuf hi) ?_
    rw [place_outbuf hi]
    obtain hdone | hlen := hno
    · simp [readPlace, hdone]
    · simp [readPlace, Nat.not_lt.2 hlen]

/-! ## Host writes -/

/-- A defined write to a place other than CTRL takes effect while `BUSY = 0`. -/
theorem step_write_idle {s : State} {w : Width} {off : Nat} {v : Word} {rest : List Event}
    (ha : s.agenda = .host (.write w off v) :: rest) (hl : LegalAccess s.inCap w off)
    (hp : place s.inCap off ≠ .ctrl) (hb : s.busy = false) :
    step s = .next (writePlace { s with agenda := rest } v (place s.inCap off)) := by
  rw [step_write ha]
  simp [hostWrite, (accessOk_iff ..).2 hl, hp, hb]

/-- While busy every defined write is ignored: a START by R202, any other by R47. -/
theorem step_write_busy {s : State} {w : Width} {off : Nat} {v : Word} {rest : List Event}
    (ha : s.agenda = .host (.write w off v) :: rest) (hl : LegalAccess s.inCap w off) (hb : s.busy = true) :
    step s = .next { s with agenda := rest } := by
  rw [step_write ha]
  obtain ⟨hno, _⟩ | ⟨i, _, _, hd, hw⟩ | ⟨_, _, _, hw⟩ | ⟨_, _, _, hw⟩ | ⟨_, _, hidle, _⟩ :=
    hostWrite_cases w off v { s with agenda := rest }
  · exact absurd (hno.symm.trans ((accessOk_iff ..).2 hl)) (by decide)
  · rw [hw, decodeCmd_ok hd, exec_start]
    simp [execStart, hb]
  · exact hw
  · exact hw
  · exact absurd (hidle.symm.trans hb) (by decide)

/-- A write to a place that is not CTRL and not writable is ignored at any time. -/
theorem step_write_readOnly {s : State} {w : Width} {off : Nat} {v : Word} {rest : List Event}
    (ha : s.agenda = .host (.write w off v) :: rest) (hl : LegalAccess s.inCap w off)
    (hp : place s.inCap off ≠ .ctrl) (hkeep : ∀ u, writePlace u v (place s.inCap off) = u) :
    step s = .next { s with agenda := rest } := by
  by_cases hb : s.busy = true
  · exact step_write_busy ha hl hb
  · rw [step_write_idle ha hl hp (Bool.eq_false_of_not_eq_true hb), hkeep]

/-- Settles O44. -/
theorem reservedOffsets : Obligations.ReservedOffsets := by
  intro s rest w off v hres hw
  have hl := legalAccess_reserved hres hw
  have hp := place_reserved hres
  exact ⟨fun ha => step_read_value ha hl (by rw [hp]; rfl),
    fun ha => step_write_readOnly ha hl (by rw [hp]; simp) fun u => by rw [hp]; rfl⟩

/-- Settles O46. -/
theorem hostWritesTakeEffect : Obligations.HostWritesTakeEffect := by
  intro s rest v i hb
  refine ⟨fun ha => ?_, fun ha => ?_, fun hi ha => ?_, fun hi ha => ?_⟩
  · exact step_write_idle ha (legalAccess_register (by decide) (by decide)) (show Place.inlen ≠ .ctrl by decide) hb
  · exact step_write_idle ha (legalAccess_register (by decide) (by decide)) (show Place.keylen ≠ .ctrl by decide) hb
  · have hstep := step_write_idle ha (legalAccess_keybuf hi) (by rw [place_keybuf _ hi]; simp) hb
    rw [place_keybuf _ hi] at hstep
    exact ⟨_, hstep, rfl, fun j => read_write s.keybuf i j _⟩
  · have hstep := step_write_idle ha (legalAccess_inbuf hi) (by rw [place_inbuf hi]; simp) hb
    rw [place_inbuf hi] at hstep
    exact ⟨_, hstep, rfl, fun j => read_write s.inbuf i j _⟩

/-- Settles O47. -/
theorem ignoredWrites : Obligations.IgnoredWrites := by
  intro s rest w off v hl ha hwhy
  obtain hb | hreg | ⟨hlow, hhigh⟩ := hwhy
  · exact step_write_busy ha hl hb
  · simp only [List.mem_cons, List.not_mem_nil, or_false] at hreg
    obtain rfl | rfl | rfl | rfl := hreg
    · exact step_write_readOnly ha hl (show Place.status ≠ .ctrl by decide) fun _ => rfl
    · exact step_write_readOnly ha hl (show Place.outlen ≠ .ctrl by decide) fun _ => rfl
    · exact step_write_readOnly ha hl (show Place.identLo ≠ .ctrl by decide) fun _ => rfl
    · exact step_write_readOnly ha hl (show Place.identHi ≠ .ctrl by decide) fun _ => rfl
  · obtain ⟨i, rfl⟩ := Nat.exists_eq_add_of_le hlow
    have hp : place s.inCap (Config.outBase s.inCap + i) = .outbuf i := place_outbuf (by omega)
    exact step_write_readOnly ha hl (by rw [hp]; simp) fun _ => by rw [hp]; rfl

end Sys2Proof.StateProofs
end

section
/-! SUPPORT. Little-endian fields (R66), the hex digit rows (R96, R125), and the host's undefined accesses (R73). -/

namespace Sys2Proof.MemoryProofs

open Sys2Proof Sys2Proof.Machine Sys2Proof.Laws Sys2Proof.StateProofs

/-! ## Storing and reading back -/

/-- The whole of a byte sequence, read from its start. -/
theorem memRead_all (bs : List Byte) : memRead bs 0 bs.length = leNat bs := by
  simp [memRead]

/-- The `n` bytes of a value hold its low `8 * n` bits. -/
theorem leNat_leBytes (n v : Nat) : leNat (leBytes n v) = v % 2 ^ (8 * n) := by
  induction n generalizing v with
  | zero => simp [leBytes, leNat, Nat.mod_one]
  | succ n ih =>
    have hpow : 2 ^ (8 * (n + 1)) = 256 * 2 ^ (8 * n) := by rw [Nat.mul_succ, Nat.pow_add, Nat.mul_comm]
    rw [leBytes, leNat, ih, BitVec.toNat_ofNat, hpow, Nat.mod_mul]

/-- A byte sequence is what its value stores. -/
theorem leBytes_leNat (bs : List Byte) : leBytes bs.length (leNat bs) = bs := by
  induction bs with
  | nil => rfl
  | cons b bs ih =>
    have hlow : BitVec.ofNat 8 (b.toNat + 256 * leNat bs) = b := by
      apply BitVec.eq_of_toNat_eq; rw [BitVec.toNat_ofNat]; omega
    have hrest : (b.toNat + 256 * leNat bs) / 256 = leNat bs := by omega
    rw [List.length_cons, leNat, leBytes, hlow, hrest, ih]

/-! ## Four bytes and a word -/

/-- Bits put above others count by the power of their position. -/
theorem append_toNat {m n : Nat} (x : BitVec m) (y : BitVec n) : (x ++ y).toNat = x.toNat * 2 ^ n + y.toNat := by
  rw [BitVec.toNat_append, ← Nat.shiftLeft_add_eq_or_of_lt y.isLt, Nat.shiftLeft_eq]

/-- Four bytes are the word with the first of them lowest. -/
theorem leNat_four (a0 a1 a2 a3 : Byte) : leNat [a0, a1, a2, a3] = (a3 ++ a2 ++ a1 ++ a0 : Word).toNat := by
  simp only [leNat, append_toNat]; omega

/-- The word four bytes are loaded as (R175, R179). -/
theorem word_of_four (a0 a1 a2 a3 : Byte) :
    BitVec.ofNat 32 (leNat [a0, a1, a2, a3]) = (a3 ++ a2 ++ a1 ++ a0 : Word) := by
  rw [leNat_four, BitVec.ofNat_toNat, BitVec.setWidth_eq]

/-- The four bytes a word is stored as (R180). -/
theorem leBytes_word (a0 a1 a2 a3 : Byte) :
    leBytes 4 (a3 ++ a2 ++ a1 ++ a0 : Word).toNat = [a0, a1, a2, a3] := by
  rw [← leNat_four]; exact leBytes_leNat [a0, a1, a2, a3]

/-- Settles O35: the round trips by induction, the key and the block from one word of four bytes. -/
theorem littleEndianRoundTrip : Obligations.LittleEndianRoundTrip := by
  refine ⟨fun n v => ⟨leBytes_length n v, ?_⟩, fun bs => ?_, fun a0 a1 a2 a3 b0 b1 b2 b3 c0 c1 c2 c3 d0 d1 d2 d3 => ?_,
    fun a0 a1 a2 a3 b0 b1 b2 b3 => ⟨word_of_four a0 a1 a2 a3, word_of_four b0 b1 b2 b3, fun c hv0 hv1 => ?_⟩⟩
  · have hread := memRead_all (leBytes n v)
    rwa [leBytes_length, leNat_leBytes] at hread
  · rw [memRead_all, leBytes_leNat]
  · rw [← word_of_four, ← word_of_four, ← word_of_four, ← word_of_four]; rfl
  · rw [blockStore, hv0, hv1, leBytes_word, leBytes_word]; rfl

/-! ## The hex digit rows -/

/-- Each hex digit row takes the nibble R96 gives it. -/
theorem exec_charRow {i : Instr} {v : Nibble} (h : (i, v) ∈ charRows) (s : State) :
    exec i s = .next (s.takeNibble v) := by
  fin_cases h <;> rfl

/-- Settles O8: one case per parity of the cursor, for all digits alike. -/
theorem charTokensComplete : Obligations.CharTokensComplete := by
  intro s i v hrow
  rw [exec_charRow hrow]
  obtain ⟨heven, htake⟩ | ⟨hodd, htake⟩ := takeNibble_cases s v
  · exact ⟨fun _ => by rw [htake], fun hodd => by omega⟩
  · exact ⟨fun heven => by omega, fun _ => ⟨_, rfl, by rw [htake], pairByte s.nib v, by rw [htake]; rfl,
      pairByte_toNat s.nib v⟩⟩

/-! ## Undefined accesses -/

/-- Settles O45: the access check of both moves fails exactly where the access is undefined. -/
theorem badAccessRefused : Obligations.BadAccessRefused := by
  intro s rest w off v hbad
  have hno : accessOk s.inCap w off = false := by rwa [← Bool.not_eq_true, accessOk_iff]
  refine ⟨fun hread => ?_, fun hwrite => ?_⟩
  · rw [step_read hread]; simp [hostRead, hno]
  · rw [step_write hwrite]; simp [hostWrite, hno]

end Sys2Proof.MemoryProofs
end

section
/-! SUPPORT. Under the invariant the Engine always completes its step, and no event is a fault (R64, R203). -/

namespace Sys2Proof.MemoryProofs

open Sys2Proof Sys2Proof.Machine Sys2Proof.Laws Sys2Proof.StateProofs

/-! ## The stages that can stop -/

/-- Two cells inside a written packet read as a pair. -/
theorem packet_pair {s : State} {pkt : List Byte} (hpkt : s.packet = some pkt) {i : Nat}
    (hi : i + 2 ≤ s.inlen.toNat) : ∃ a b, s.inbuf.readRange i 2 = some [a, b] := by
  have hread := readRange_part hpkt hi
  obtain ⟨a, b, hab⟩ := List.length_eq_two.1 (readRange_length hread)
  exact ⟨a, b, hab ▸ hread⟩

/-- FRAME completes on a written packet that INBUF holds. -/
theorem execFrame_completes {s : State} (hcap : s.inlen.toNat ≤ s.inCap) (hpkt : s.packet.isSome = true) :
    ∃ t, execFrame s = .next t := by
  obtain ⟨pkt, hpkt⟩ := Option.isSome_iff_exists.1 hpkt
  by_cases hmin : s.inlen.toNat < 4
  · exact ⟨_, if_pos hmin⟩
  obtain ⟨a, b, hfirst⟩ := packet_pair hpkt (i := 0) (by omega)
  obtain ⟨c, d, hlast⟩ := packet_pair hpkt (i := s.inlen.toNat - 2) (by omega)
  have hinner := readRange_part hpkt (i := 2) (k := s.inlen.toNat - 4) (by omega)
  unfold execFrame Config.minLen
  simp only [if_neg hmin, if_neg (Nat.not_lt.2 hcap), hfirst, hlast, hinner]
  split
  · split <;> exact ⟨_, rfl⟩
  · exact ⟨_, rfl⟩

/-- CIPHER's loop completes when the key it reads is written: the key and its length stay as they are. -/
theorem cipherLoop_completes (cs : List (List Byte)) {s : State}
    (hkey : s.keylen.toNat = 16 → s.key.isSome = true) : ∃ t, cipherLoop cs s = .next t := by
  induction cs generalizing s with
  | nil => exact ⟨_, rfl⟩
  | cons chunk rest ih =>
    obtain ⟨_, hl⟩ | ⟨_, _, hl⟩ | ⟨hk, _, hnone, _⟩ | ⟨key, _, _, _, hl⟩ := cipherLoop_cons chunk rest s
    · exact ⟨_, hl⟩
    · exact ⟨_, hl⟩
    · have hwritten := hkey hk
      simp [hnone] at hwritten
    · rw [hl]; exact ih hkey

/-- The text HEXENC leaves is at least 20 characters shorter than the capacity (R64). -/
theorem hex_fits {s : State} (h : LengthsOk s) (hb : s.busy = true) (hs : s.stage = 7#3) : s.hex.len + 20 ≤ s.inCap := by
  have code : s.stage.toNat = 7 := by rw [hs]; rfl
  have hinlen := h.inlen hb
  have htxt := h.txt hb (by omega)
  have hraw := h.raw hb (by omega)
  have hstf := h.stf hb (by omega)
  have hpay := h.pay hb (by omega)
  obtain ⟨hpln, _⟩ := h.pln hb (by omega)
  have hhex := h.hex hb (by omega)
  omega

/-- TRIM completes when its result fits OUTBUF. -/
theorem execTrim_completes {s : State} (hroom : s.hex.len - 4 ≤ s.inCap) : ∃ t, execTrim s = .next t := by
  obtain ⟨_, ht⟩ | ⟨_, hover, _⟩ | ⟨_, _, ht⟩ := execTrim_cases s
  · exact ⟨_, ht⟩
  · omega
  · exact ⟨_, ht⟩

/-! ## The Engine's turn -/

/-- Settles O52, stage by stage: FRAME needs the written packet, CIPHER the written key, TRIM the lengths of R64, and
the other stages nothing. -/
theorem engineNeverStops : Obligations.EngineNeverStops := by
  intro s h hb
  obtain ⟨i, hd⟩ := stage_ok (h.flags.busy_iff.1 hb)
  rw [engineStep_busy hb hd]
  obtain ⟨_, rfl⟩ | ⟨_, rfl⟩ | ⟨_, rfl⟩ | ⟨_, rfl⟩ | ⟨_, rfl⟩ | ⟨_, rfl⟩ | ⟨hs, rfl⟩ := stage_codes hd
  · exact execFrame_completes (h.lengths.inlen hb) (h.inputs.packet hb)
  · obtain he | ⟨_, _, _, he⟩ := execHexdec_cases s <;> exact ⟨_, he⟩
  · obtain ⟨_, he⟩ | ⟨_, he⟩ := execIdext_cases s <;> exact ⟨_, he⟩
  · exact ⟨_, rfl⟩
  · exact cipherLoop_completes _ (h.inputs.key hb)
  · exact ⟨_, rfl⟩
  · have hfits := hex_fits h.lengths hb hs
    exact execTrim_completes (by omega)

/-- An idle Engine has nothing to complete, and a running one completes its stage. -/
theorem engineStep_completes {s : State} (h : Inv s) : ∃ t, engineStep s = .next t := by
  cases hb : s.busy with
  | false => exact ⟨s, engineStep_idle hb⟩
  | true => exact engineNeverStops s h hb

/-- The close look completes: a token at the cursor always does, and without one the whole stage does. -/
theorem tokenStep_completes {s : State} (h : Inv s) : ∃ t, tokenStep s = .next t := by
  cases hb : s.busy with
  | false => exact ⟨s, by simp [tokenStep, hb]⟩
  | true =>
    cases hf : fetchToken s with
    | none =>
      have hstage : tokenStep s = engineStep s := by simp [tokenStep, hb, hf]
      rw [hstage]; exact engineStep_completes h
    | some i =>
      rw [tokenStep_of_fetch hb hf]
      obtain ⟨_, _, he⟩ | ⟨_, _, he⟩ | ⟨_, _, _, _, he⟩ := token_cases hf <;> exact ⟨_, he⟩

/-! ## The host's moves -/

/-- A host read answers or is refused. -/
theorem hostRead_no_fault (w : Width) (off : Nat) (s : State) (r : Fault) : hostRead w off s ≠ .fault r := by
  obtain ⟨_, hr⟩ | ⟨_, _, _, hr⟩ | ⟨_, _, hr⟩ := hostRead_cases w off s <;> simp [hr]

/-- A START is ignored, refused or accepted. -/
theorem execStart_no_fault (ignored : BitVec 31) (s : State) (r : Fault) : execStart ignored s ≠ .fault r := by
  obtain ⟨_, he⟩ | ⟨_, _, he⟩ | ⟨_, _, _, he⟩ | ⟨_, _, _, _, he⟩ := execStart_cases ignored s <;> simp [he]

/-- A host write is refused, ignored, stored or a START. -/
theorem hostWrite_no_fault (w : Width) (off : Nat) (v : Word) (s : State) (r : Fault) :
    hostWrite w off v s ≠ .fault r := by
  obtain ⟨_, hw⟩ | ⟨i, _, _, hd, hw⟩ | ⟨_, _, _, hw⟩ | ⟨_, _, _, hw⟩ | ⟨_, _, _, hw⟩ := hostWrite_cases w off v s <;>
    rw [hw]
  case inr.inl => rw [decodeCmd_ok hd, exec_start]; exact execStart_no_fault _ s r
  all_goals simp

/-! ## A step -/

/-- What stands in the agenda is no part of the invariant. -/
theorem inv_of_agenda {s : State} (h : Inv s) (rest : List Event) : Inv { s with agenda := rest } :=
  (Transition.quiet _ (.of_ownFields s s.rdata s.free rest)).inv h

/-- A step that completes is no fault. -/
theorem no_fault_of_completes {o : Host.Outcome State Fault Refusal} (h : ∃ t, o = .next t) (r : Fault) :
    o ≠ .fault r := by
  obtain ⟨t, rfl⟩ := h
  simp

/-- Settles O53, event by event: the Engine's own events complete, and the host's moves never fault. -/
theorem stepNeverFaults : Obligations.StepNeverFaults := by
  intro s h r
  cases ha : s.agenda with
  | nil => rw [step_empty ha]; exact no_fault_of_completes (engineStep_completes h) r
  | cons ev rest =>
    have hrest := inv_of_agenda h rest
    match ev with
    | .engine => rw [step_engine ha]; exact no_fault_of_completes (engineStep_completes hrest) r
    | .token => rw [step_token ha]; exact no_fault_of_completes (tokenStep_completes hrest) r
    | .reset => rw [step_reset ha]; simp
    | .host (.read w off) => rw [step_read ha]; exact hostRead_no_fault w off _ r
    | .host (.write w off v) => rw [step_write ha]; exact hostWrite_no_fault w off v _ r

end Sys2Proof.MemoryProofs
end

section
/-! SUPPORT. The decoder and the encoder of each format (R94 to R105): what each decoder accepts, and that the two are
inverse to each other on the well-formed instructions. -/

namespace Sys2Proof.EncodingProofs

open Sys2Proof Sys2Proof.Machine Sys2Proof.Laws

/-! ## CHAR -/

/-- Everything a character can decode to: by R95 and R96 it has neither row nor value, or it is the pattern of a row
and has the row's value. -/
theorem decodeChar_cases : ∀ c : Byte,
    (hexval c = none ∧ decodeChar c = .error .nonHexCharacter) ∨
    ∃ row ∈ charRows, encode row.1 = (.char, [c]) ∧ hexval c = some row.2 ∧ decodeChar c = .ok row.1 := by decide

/-- A CHAR row has no operand that could be wrong. -/
theorem charRows_wellFormed : ∀ row ∈ charRows, WellFormed row.1 := by decide

/-- A character that decodes is the pattern of what it decodes to. -/
theorem decodeChar_ok {c : Byte} {i : Instr} (h : decodeChar c = .ok i) :
    WellFormed i ∧ encode i = (.char, [c]) := by
  obtain ⟨_, hd⟩ | ⟨row, hrow, henc, _, hd⟩ := decodeChar_cases c <;> rw [hd] at h <;> cases h
  exact ⟨charRows_wellFormed row hrow, henc⟩

/-- A hex digit selects a row of its value. -/
theorem decodeChar_of_hexval {c : Byte} {v : Nibble} (h : hexval c = some v) :
    ∃ i, decodeChar c = .ok i ∧ (i, v) ∈ charRows := by
  obtain ⟨hv, _⟩ | ⟨row, hrow, _, hv, hd⟩ := decodeChar_cases c <;> rw [hv] at h <;> cases h
  exact ⟨row.1, hd, hrow⟩

/-! ## MARK -/

/-- Two pairs of bytes are equal as 16-bit patterns exactly when they are equal byte by byte. -/
theorem append_eq_append_iff (a b a' b' : Byte) : a ++ b = a' ++ b' ↔ a = a' ∧ b = b' := by
  refine ⟨fun h => ⟨?_, ?_⟩, fun ⟨ha, hb⟩ => by rw [ha, hb]⟩
  · rw [← BitVec.extractLsb'_append_eq_left (a := a) (b := b), h, BitVec.extractLsb'_append_eq_left]
  · rw [← BitVec.extractLsb'_append_eq_right (a := a) (b := b), h, BitVec.extractLsb'_append_eq_right]

/-- The MARK rows character by character: the mask 0xDFFF frees bit 5 of the first character, its case (R99). -/
theorem decodeMark_eq (first second : Byte) : decodeMark first second =
    if first &&& 0xDF#8 = 0x43#8 ∧ second = 0x30#8 then .ok (.sof (first.getLsbD 5))
    else if first &&& 0xDF#8 = 0x43#8 ∧ second = 0x32#8 then .ok (.eofm (first.getLsbD 5))
    else .error .notAMarker := by
  have hmask : (first ++ second) &&& 0xDFFF#16 = (first &&& 0xDF#8) ++ second := by
    rw [show 0xDFFF#16 = 0xDF#8 ++ BitVec.allOnes 8 from rfl, BitVec.and_append, BitVec.and_allOnes]
  have hcase : (first ++ second).getLsbD 13 = first.getLsbD 5 := by
    rw [BitVec.getLsbD_append, if_neg (by decide)]
  simp only [decodeMark, hmask, hcase, markPattern_sof, markPattern_eofM,
    show 0x4330#16 = 0x43#8 ++ 0x30#8 from rfl, show 0x4332#16 = 0x43#8 ++ 0x32#8 from rfl, append_eq_append_iff]

/-- A character that is a marker's letter under the mask is that letter in the case its bit 5 gives. -/
theorem letter_of_masked :
    ∀ c : Byte, c &&& 0xDF#8 = 0x43#8 → (if c.getLsbD 5 then 0x63#8 else 0x43#8) = c := by decide

/-- The pattern of the SOF row (R99). -/
theorem encode_sof (lowerCase : Bool) :
    encode (.sof lowerCase) = (.mark, [if lowerCase then 0x63#8 else 0x43#8, 0x30#8]) := by cases lowerCase <;> rfl

/-- The pattern of the EOFM row (R99). -/
theorem encode_eofm (lowerCase : Bool) :
    encode (.eofm lowerCase) = (.mark, [if lowerCase then 0x63#8 else 0x43#8, 0x32#8]) := by cases lowerCase <;> rfl

/-- A pair that decodes is the pattern of what it decodes to, in the case of its letter. -/
theorem decodeMark_ok {first second : Byte} {i : Instr} (h : decodeMark first second = .ok i) :
    WellFormed i ∧ encode i = (.mark, [first, second]) := by
  rw [decodeMark_eq] at h
  split_ifs at h with hsof heofm <;> cases h
  · exact ⟨rfl, by rw [encode_sof, letter_of_masked first hsof.1, hsof.2]⟩
  · exact ⟨rfl, by rw [encode_eofm, letter_of_masked first heofm.1, heofm.2]⟩

/-! ## STUFF -/

/-- The row a byte selects under ESC is well-formed, and its pattern is that byte and that flag (R102, R105). -/
theorem encode_decodeStuff (esc : Bool) (n : Byte) :
    WellFormed (decodeStuff esc n) ∧ encode (decodeStuff esc n) = (.stuff, [n, if esc then 1#8 else 0#8]) := by
  cases esc
  · by_cases hs : n = Config.sentinel
    · subst hs; exact ⟨rfl, rfl⟩
    · simp [decodeStuff, hs, WellFormed, Instr.wellFormed, encode, Instr.format, Instr.bytes]
  · by_cases hs : n = Config.sentinel
    · subst hs; exact ⟨rfl, rfl⟩
    · by_cases hc : n = Config.sentinel + 1#8
      · subst hc; exact ⟨rfl, rfl⟩
      · simp [decodeStuff, hs, hc, WellFormed, Instr.wellFormed, encode, Instr.format, Instr.bytes]

/-! ## CMD -/

/-- A value with bit 0 set is START (R104). -/
theorem decodeCmd_set {v : Word} (h : v.getLsbD 0 = true) : decodeCmd v = .ok (.start (v.extractLsb' 1 31)) := by
  rw [decodeCmd, if_pos h]

/-- A value with bit 0 clear is no command (R104). -/
theorem decodeCmd_clear {v : Word} (h : v.getLsbD 0 = false) : decodeCmd v = .error .noCommand := by
  rw [decodeCmd, h]; rfl

/-- A command's value is its ignored bits above a set bit 0. -/
theorem ignored_append_one {v : Word} (h : v.getLsbD 0 = true) : v.extractLsb' 1 31 ++ 1#1 = v := by
  have hbit : v.extractLsb' 0 1 = 1#1 := by
    ext k hk
    obtain rfl : k = 0 := by omega
    simpa using h
  rw [← hbit, BitVec.extractLsb'_append_extractLsb'_eq_extractLsb' (start₂ := 1) (len₁ := 1) rfl,
    BitVec.extractLsb'_eq_self]

/-- START's value decodes to START with its ignored bits. -/
theorem decodeCmd_start (ignored : BitVec 31) : decodeCmd (ignored ++ 1#1) = .ok (.start ignored) := by
  rw [decodeCmd_set (by rw [BitVec.getLsbD_append]; rfl), BitVec.extractLsb'_append_eq_left]

/-- A word is its four bytes, the highest of them first. -/
theorem word_of_its_bytes (v : Word) :
    v.extractLsb' 24 8 ++ v.extractLsb' 16 8 ++ v.extractLsb' 8 8 ++ v.extractLsb' 0 8 = v := by
  rw [BitVec.extractLsb'_append_extractLsb'_eq_extractLsb' (start₂ := 24) (len₁ := 8) rfl,
    BitVec.extractLsb'_append_extractLsb'_eq_extractLsb' (start₂ := 16) (len₁ := 8) rfl,
    BitVec.extractLsb'_append_extractLsb'_eq_extractLsb' (start₂ := 8) (len₁ := 8) rfl, BitVec.extractLsb'_eq_self]

/-- Four bytes are the bytes of the word they form. -/
theorem bytes_of_their_word {b0 b1 b2 b3 : Byte} {v : Word} (h : b3 ++ b2 ++ b1 ++ b0 = v) :
    [v.extractLsb' 0 8, v.extractLsb' 8 8, v.extractLsb' 16 8, v.extractLsb' 24 8] = [b0, b1, b2, b3] := by
  subst h
  simp [BitVec.extractLsb'_append_eq_of_le (w := 8), BitVec.extractLsb'_append_eq_right (w' := 8)]

/-- Four bytes that decode to a command are the pattern of it. -/
theorem decodeCmd_ok_bytes {b0 b1 b2 b3 : Byte} {i : Instr} (h : decodeCmd (b3 ++ b2 ++ b1 ++ b0) = .ok i) :
    WellFormed i ∧ encode i = (.cmd, [b0, b1, b2, b3]) := by
  cases hbit : (b3 ++ b2 ++ b1 ++ b0 : Word).getLsbD 0
  · rw [decodeCmd_clear hbit] at h; cases h
  · obtain rfl := decodeCmd_ok h
    exact ⟨rfl, congrArg (Format.cmd, ·) (bytes_of_their_word (ignored_append_one hbit).symm)⟩

/-! ## STG -/

/-- A code that decodes is the pattern of the stage operation it selects (R30). -/
theorem decodeStage_ok {code : BitVec 3} {i : Instr} (h : decodeStage code = .ok i) :
    WellFormed i ∧ encode i = (.stg, [code.setWidth 8]) := by
  unfold decodeStage at h
  split_ifs at h <;> cases h <;> subst code <;> exact ⟨rfl, rfl⟩

/-- A byte below 8 is its three low bits. -/
theorem setWidth_code {c : Byte} (h : c.toNat < 8) : (c.extractLsb' 0 3).setWidth 8 = c := by
  apply BitVec.eq_of_toNat_eq
  simp only [BitVec.toNat_setWidth, BitVec.extractLsb'_toNat, Nat.shiftRight_zero]
  omega

/-! ## Decoder and encoder together -/

/-- A pattern that decodes is the encoding of what it decodes to, which is well-formed: format by format, a pattern of
another width being rejected. -/
theorem encode_of_decode {f : Format} {bs : List Byte} {i : Instr} (h : decode f bs = .ok i) :
    WellFormed i ∧ encode i = (f, bs) := by
  cases f with
  | char =>
    simp only [decode] at h
    split at h
    case h_1 => exact decodeChar_ok h
    case h_2 => cases h
  | mark =>
    simp only [decode] at h
    split at h
    case h_1 => exact decodeMark_ok h
    case h_2 => cases h
  | stuff =>
    simp only [decode] at h
    split at h
    case h_1 n e =>
      split_ifs at h with h0 h1 <;> cases h
      · subst h0; exact encode_decodeStuff false n
      · subst h1; exact encode_decodeStuff true n
    case h_2 => cases h
  | stuffEnd =>
    simp only [decode] at h
    split at h <;> cases h
    exact ⟨rfl, rfl⟩
  | cmd =>
    simp only [decode] at h
    split at h
    case h_1 => exact decodeCmd_ok_bytes h
    case h_2 => cases h
  | stg =>
    simp only [decode] at h
    split at h
    case h_1 c =>
      split_ifs at h with hc
      rw [← setWidth_code hc]
      exact decodeStage_ok h
    case h_2 => cases h

/-- Settles O1: the rows with an operand one by one; every other row has one pattern, which decodes to it. -/
theorem decodeEncode : Obligations.DecodeEncode := by
  intro i hwf
  cases i with
  | sof lowerCase => cases lowerCase <;> rfl
  | eofm lowerCase => cases lowerCase <;> rfl
  | lit n =>
    have hs : n ≠ Config.sentinel := by simpa [WellFormed, Instr.wellFormed] using hwf
    simp [encode, Instr.format, Instr.bytes, decode, decodeStuff, hs]
  | escDec n =>
    obtain ⟨hs, hc⟩ : n ≠ Config.sentinel ∧ n ≠ Config.sentinel + 1#8 := by
      simpa [WellFormed, Instr.wellFormed] using hwf
    simp [encode, Instr.format, Instr.bytes, decode, decodeStuff, hs, hc]
  | start ignored =>
    simp only [encode, Instr.format, Instr.bytes, decode]
    rw [word_of_its_bytes, decodeCmd_start]
  | _ => rfl

/-- Settles O2: no other well-formed instruction has the pattern, since the decoder gives each back from its own (O1). -/
theorem encodeDecode : Obligations.EncodeDecode := by
  intro f bs i hdec
  obtain ⟨hwf, henc⟩ := encode_of_decode hdec
  refine ⟨hwf, henc, fun j hj hjenc => ?_⟩
  have hback := decodeEncode j hj
  rw [hjenc] at hback
  exact Except.ok.inj (hback.symm.trans hdec)

/-- Settles O3: closed words, each evaluated. -/
theorem tableWordsDecode : Obligations.TableWordsDecode := by
  unfold Obligations.TableWordsDecode
  decide

/-- Settles O4. -/
theorem charRowsAreHexDigits : Obligations.CharRowsAreHexDigits := by
  intro c
  obtain ⟨hv, hd⟩ | ⟨row, hrow, _, hv, hd⟩ := decodeChar_cases c <;> rw [hd]
  · exact ⟨nofun, fun _ h => ⟨(Except.error.inj h).symm, hv⟩⟩
  · exact ⟨fun _ h => ⟨row.2, hv, Except.ok.inj h ▸ hrow⟩, nofun⟩

end Sys2Proof.EncodingProofs
end

section
/-! SUPPORT. What the decoded instruction does: a command written to CTRL, a marker pair, a byte of the stuffed payload,
and the stages HEXDEC and DESTUFF as their tokens in order. -/

namespace Sys2Proof.EncodingProofs

open Sys2Proof Sys2Proof.Machine Sys2Proof.Laws Sys2Proof.StateProofs Sys2Proof.MemoryProofs

/-! ## Commands -/

/-- A 32-bit write to CTRL runs the command its value decodes to (R40). -/
theorem hostWrite_command {v : Word} {i : Instr} (h : decodeCmd v = .ok i) (s : State) :
    hostWrite .w32 0 v s = exec i s := by
  simp [hostWrite, accessOk, place, h]

/-- A 32-bit write to CTRL of a value that is no command changes nothing (R104). -/
theorem hostWrite_no_command {v : Word} {e : DecodeError} (h : decodeCmd v = .error e) (s : State) :
    hostWrite .w32 0 v s = .next s := by
  simp [hostWrite, accessOk, place, h]

/-- START does the same whatever its ignored bits (R104). -/
theorem exec_start_ignored (a b : BitVec 31) (s : State) : exec (.start a) s = exec (.start b) s := rfl

/-- Settles O7: the step is the write to CTRL, and the write is the command. -/
theorem stepRunsCommand : Obligations.StepRunsCommand := by
  intro s v rest ha
  rw [step_write ha]
  refine ⟨fun i hd => hostWrite_command hd _, fun hclear => hostWrite_no_command (decodeCmd_clear hclear) _,
    fun hset => ?_⟩
  rw [hostWrite_command (decodeCmd_set hset)]
  exact exec_start_ignored _ _ _

/-! ## Marker tokens -/

theorem exec_sof (lowerCase : Bool) (s : State) : exec (.sof lowerCase) s = .next (s.takeMarker 0) := rfl

theorem exec_eofm (lowerCase : Bool) (s : State) :
    exec (.eofm lowerCase) s = .next (s.takeMarker (s.inlen.toNat - 2)) := rfl

/-- A marker at its position in a packet that can hold two is passed (R120). -/
theorem takeMarker_placed {s : State} {position : Nat} (hmin : 4 ≤ s.inlen.toNat) (hpos : s.cur = position) :
    s.takeMarker position = { s with cur := position + 2 } := by
  obtain ⟨_, _, h⟩ | ⟨hbad, _⟩ := takeMarker_cases s position
  · rw [h, hpos]
  · omega

/-- A marker out of its position, or in a packet too short for two, ends the command with a frame error (R121). -/
theorem takeMarker_misplaced {s : State} {position : Nat} (hbad : s.inlen.toNat < 4 ∨ s.cur ≠ position) :
    s.takeMarker position = endedWith s 1#3 := by
  obtain ⟨hmin, hpos, _⟩ | ⟨_, h⟩ := takeMarker_cases s position
  · omega
  · exact h

/-- Settles O9. -/
theorem markerTokensComplete : Obligations.MarkerTokensComplete := by
  intro s lowerCase hmin
  refine ⟨fun hcur => ?_, fun hcur => ?_⟩
  · rw [exec_sof, takeMarker_placed hmin hcur]
  · rw [exec_eofm, takeMarker_placed hmin (by omega), Nat.sub_add_cancel (by omega)]

/-- Settles O10. -/
theorem misplacedMarkerIsFrameError : Obligations.MisplacedMarkerIsFrameError := by
  intro s lowerCase
  refine ⟨fun hbad => ?_, fun hbad => ?_⟩
  · rw [exec_sof, takeMarker_misplaced hbad]
  · rw [exec_eofm, takeMarker_misplaced (by omega)]

/-! ## Tokens of the stuffed payload -/

/-- ESC_DEC's output is the byte before, modulo 256 (R156). -/
theorem dec_toNat (n : Byte) : (n - 1#8).toNat = (n.toNat + 255) % 256 := by
  rw [BitVec.toNat_sub, Nat.add_comm]; rfl

/-- Settles O11: row by row. -/
theorem stuffTokensComplete : Obligations.StuffTokensComplete := fun s =>
  ⟨fun n => ⟨s.takeLit n, rfl, rfl, rfl⟩, rfl, ⟨s.takeSelf, rfl, rfl, rfl⟩,
    fun n => ⟨s.takeDec n, n - 1#8, rfl, rfl, dec_toNat n, rfl⟩, rfl, rfl⟩

/-! ## HEXDEC as its tokens -/

/-- A text of hex digits has a nibble for each character. -/
theorem hexvals_of_digits {text : List Byte} (h : ∀ c ∈ text, hexval c ≠ none) :
    ∃ digits, hexvals text = some digits := by
  induction text with
  | nil => exact ⟨[], rfl⟩
  | cons c cs ih =>
    obtain ⟨hc, hcs⟩ := List.forall_mem_cons.1 h
    obtain ⟨d, hd⟩ := Option.ne_none_iff_exists'.1 hc
    obtain ⟨ds, hds⟩ := ih hcs
    exact ⟨d :: ds, by simp [hexvals, hd, hds]⟩

/-- The CHAR tokens of a text take its nibbles in order. -/
theorem runChars_eq_foldl {text : List Byte} {digits : List Nibble} (h : hexvals text = some digits) (s : State) :
    runChars text s = some (digits.foldl State.takeNibble s) := by
  induction text generalizing digits s with
  | nil => cases h; rfl
  | cons c cs ih =>
    simp only [hexvals] at h
    split at h
    case h_1 d ds hd hds =>
      cases h
      obtain ⟨i, hi, hrow⟩ := decodeChar_of_hexval hd
      simp only [runChars, hi, exec_charRow hrow, List.foldl_cons]
      exact ih hds _
    case h_2 => cases h

/-- Settles O12: both sides take the nibbles of the text in order. -/
theorem hexdecRunsItsTokens : Obligations.HexdecRunsItsTokens := by
  rintro s ⟨heven, hdigits⟩
  obtain ⟨digits, hvals⟩ := hexvals_of_digits hdigits
  refine ⟨_, runChars_eq_foldl hvals _, ?_⟩
  have hlen : ¬ s.txt.len % 2 = 1 := by rw [Buffer.len]; omega
  simp only [exec, execHexdec, if_neg hlen, hvals]
  rfl

/-! ## DESTUFF as its tokens -/

/-- The token the decoder selects under ESC does what one pass of DESTUFF's loop does. -/
theorem exec_decodeStuff_eq (s : State) (n : Byte) : exec (decodeStuff s.esc n) s = .next (destuffByte s n) := by
  obtain ⟨he, hn, h⟩ | ⟨he, hn, h⟩ | ⟨he, hn, h⟩ | ⟨he, hn, h⟩ | ⟨he, hn, hn', h⟩ := destuffByte_cases s n <;>
    rw [h, he]
  · subst hn; rfl
  · simp only [decodeStuff, if_neg hn]; rfl
  · subst hn; rfl
  · subst hn; rfl
  · simp only [decodeStuff, if_neg hn, if_neg hn']; rfl

/-- The STUFF tokens of a byte sequence are the passes of DESTUFF's loop, and ESC_END drops an escape left open. -/
theorem runStuff_eq_foldl (bytes : List Byte) (s : State) :
    runStuff bytes s = some (if (bytes.foldl destuffByte s).esc then (bytes.foldl destuffByte s).takeEnd
      else bytes.foldl destuffByte s) := by
  induction bytes generalizing s with
  | nil =>
    rw [List.foldl_nil, runStuff]
    split <;> rfl
  | cons n ns ih =>
    rw [List.foldl_cons, ← ih, runStuff, exec_decodeStuff_eq]

/-- Settles O13: both sides are the loop over STF and the end of an open escape. -/
theorem destuffRunsItsTokens : Obligations.DestuffRunsItsTokens := fun _ =>
  ⟨_, runStuff_eq_foldl _ _, rfl⟩

end Sys2Proof.EncodingProofs
end

section
/-! SUPPORT. The hex codec: what `hexdec` gives on a text, pair by pair, and that `hexenc` and `hexdec` are inverse to
each other up to the case of the letters (R125, R126, R130, R131). -/

namespace Sys2Proof.FrameHexProofs

open Sys2Proof Sys2Proof.Machine Sys2Proof.Laws Sys2Proof.StateProofs

/-! ## Pairs -/

/-- The high nibble of a pair is its first digit (R67). -/
@[simp] theorem highNibble_pairByte (high low : Nibble) : highNibble (pairByte high low) = high := by
  apply BitVec.eq_of_toNat_eq
  rw [highNibble, pairByte_toNat, BitVec.toNat_ofNat]
  omega

/-- The low nibble of a pair is its second digit (R67). -/
@[simp] theorem lowNibble_pairByte (high low : Nibble) : lowNibble (pairByte high low) = low := by
  apply BitVec.eq_of_toNat_eq
  rw [lowNibble, pairByte_toNat, BitVec.toNat_ofNat]
  omega

/-! ## Decoding a text -/

/-- A text decodes by its first pair and the rest. -/
theorem hexdec_pair_eq_some {c0 c1 : Byte} {cs bs : List Byte} :
    hexdec (c0 :: c1 :: cs) = some bs ↔ ∃ high low rest, hexval c0 = some high ∧ hexval c1 = some low ∧
      hexdec cs = some rest ∧ bs = pairByte high low :: rest := by
  simp only [hexdec]
  cases hexval c0 <;> cases hexval c1 <;> cases hexdec cs <;> simp [eq_comm]

/-- A text has two characters for each byte it decodes to. -/
theorem hexdec_length {text bs : List Byte} (h : hexdec text = some bs) : text.length = 2 * bs.length := by
  induction text using List.twoStepInduction generalizing bs with
  | nil => cases h; rfl
  | singleton c => cases h
  | cons_cons c0 c1 cs ih =>
    obtain ⟨high, low, rest, _, _, hrest, rfl⟩ := hexdec_pair_eq_some.1 h
    simp only [List.length_cons, ih hrest]
    omega

/-- Each decoded byte is 16 times the value of the first character of its pair plus that of the second (R125). -/
theorem hexdec_getElem? {text bs : List Byte} (h : hexdec text = some bs) {j : Nat} {b : Byte} (hb : bs[j]? = some b) :
    ∃ c0 c1 v0 v1, text[2 * j]? = some c0 ∧ text[2 * j + 1]? = some c1 ∧
      hexval c0 = some v0 ∧ hexval c1 = some v1 ∧ b.toNat = 16 * v0.toNat + v1.toNat := by
  induction text using List.twoStepInduction generalizing bs j with
  | nil => cases h; cases hb
  | singleton c => cases h
  | cons_cons c0 c1 cs ih =>
    obtain ⟨high, low, rest, hhigh, hlow, hrest, rfl⟩ := hexdec_pair_eq_some.1 h
    cases j with
    | zero =>
      cases hb
      exact ⟨c0, c1, high, low, rfl, rfl, hhigh, hlow, pairByte_toNat high low⟩
    | succ j => exact ih hrest hb

/-- The texts that decode are the hex texts (R126). -/
theorem hexText_iff_hexdec {text : List Byte} : HexText text ↔ ∃ bs, hexdec text = some bs := by
  unfold HexText
  induction text using List.twoStepInduction with
  | nil => simp [hexdec]
  | singleton c => simp [hexdec]
  | cons_cons c0 c1 cs ih =>
    simp only [hexdec_pair_eq_some, List.length_cons, List.forall_mem_cons, Option.ne_none_iff_exists']
    have heven : (cs.length + 1 + 1) % 2 = cs.length % 2 := by omega
    rw [heven]
    simp only [Option.ne_none_iff_exists'] at ih
    constructor
    · rintro ⟨hlen, ⟨high, hhigh⟩, ⟨low, hlow⟩, hcs⟩
      obtain ⟨rest, hrest⟩ := ih.1 ⟨hlen, hcs⟩
      exact ⟨_, high, low, rest, hhigh, hlow, hrest, rfl⟩
    · rintro ⟨_, high, low, rest, hhigh, hlow, hrest, rfl⟩
      obtain ⟨hlen, hcs⟩ := ih.2 ⟨rest, hrest⟩
      exact ⟨hlen, ⟨high, hhigh⟩, ⟨low, hlow⟩, hcs⟩

/-! ## Both directions -/

/-- What HEXENC writes decodes to what it was written for. -/
@[simp] theorem hexdec_hexenc (bs : List Byte) : hexdec (hexenc bs) = some bs := by
  induction bs with
  | nil => rfl
  | cons b bs ih =>
    exact hexdec_pair_eq_some.2 ⟨highNibble b, lowNibble b, bs, hexval_hexchar _, hexval_hexchar _, ih,
      by rw [pairByte_nibbles]⟩

/-- Encoding what a text decodes to gives the text in lower case. -/
theorem hexenc_of_hexdec {text bs : List Byte} (h : hexdec text = some bs) : hexenc bs = text.map lower := by
  induction text using List.twoStepInduction generalizing bs with
  | nil => cases h; rfl
  | singleton c => cases h
  | cons_cons c0 c1 cs ih =>
    obtain ⟨high, low, rest, hhigh, hlow, hrest, rfl⟩ := hexdec_pair_eq_some.1 h
    simp [hexenc, hexPair, hexchar_of_hexval hhigh, hexchar_of_hexval hlow, ih hrest]

/-- HEXENC writes lowercase digits only (R97). -/
theorem hexenc_range {bs : List Byte} {c : Byte} (h : c ∈ hexenc bs) :
    (0x30 ≤ c.toNat ∧ c.toNat ≤ 0x39) ∨ (0x61 ≤ c.toNat ∧ c.toNat ≤ 0x66) := by
  induction bs with
  | nil => cases h
  | cons b bs ih =>
    simp only [hexenc, hexPair, List.cons_append, List.nil_append, List.mem_cons] at h
    obtain rfl | rfl | h := h
    · exact hexchar_range _
    · exact hexchar_range _
    · exact ih h

/-- Settles O20: bytes by induction on them, texts by induction on their pairs. -/
theorem codecLossless : Obligations.CodecLossless := by
  refine ⟨fun bs => ⟨hexdec_hexenc bs, hexenc_length bs⟩, fun text htext => ?_⟩
  obtain ⟨bs, hbs⟩ := hexText_iff_hexdec.1 htext
  exact ⟨bs, hbs, hexenc_of_hexdec hbs⟩

end Sys2Proof.FrameHexProofs
end

section
/-! SUPPORT. HEXDEC and HEXENC: the two stages as the codec's functions on their buffers (R125, R126, R130). -/

namespace Sys2Proof.FrameHexProofs

open Sys2Proof Sys2Proof.Machine Sys2Proof.Laws Sys2Proof.StateProofs

/-! ## HEXDEC -/

theorem exec_hexdec (s : State) : exec .hexdec s = execHexdec s := rfl

/-- Two nibbles from an even cursor append their pair to RAW (R67). -/
theorem takeNibble_pair {s : State} (heven : s.cur % 2 = 0) (high low : Nibble) :
    (s.takeNibble high).takeNibble low =
      { s with raw := s.raw.emit (pairByte high low), nib := high, cur := s.cur + 2 } := by
  have hodd : ¬ (s.cur + 1) % 2 = 0 := by omega
  simp only [State.takeNibble, if_pos heven, if_neg hodd]

/-- The nibbles of a text, taken from an even cursor, append to RAW the bytes the text decodes to. -/
theorem foldl_takeNibble_hexdec {text bs : List Byte} (h : hexdec text = some bs) {s : State} (heven : s.cur % 2 = 0) :
    ∃ digits raw nib cur, hexvals text = some digits ∧
      digits.foldl State.takeNibble s = { s with raw := raw, nib := nib, cur := cur } ∧
      raw.live = s.raw.live ++ bs := by
  induction text using List.twoStepInduction generalizing bs s with
  | nil => cases h; exact ⟨[], _, _, _, rfl, rfl, by simp⟩
  | singleton c => cases h
  | cons_cons c0 c1 cs ih =>
    obtain ⟨high, low, rest, hhigh, hlow, hrest, rfl⟩ := hexdec_pair_eq_some.1 h
    obtain ⟨digits, raw, nib, cur, hdigits, hfold, hraw⟩ := ih hrest
      (s := (s.takeNibble high).takeNibble low) (by rw [takeNibble_pair heven]; dsimp only; omega)
    refine ⟨high :: low :: digits, raw, nib, cur, by simp [hexvals, hhigh, hlow, hdigits], ?_, ?_⟩
    · rw [List.foldl_cons, List.foldl_cons, hfold, takeNibble_pair heven]
    · rw [hraw, takeNibble_pair heven]; simp

/-- Only a text of hex digits has a nibble for each character. -/
theorem digits_of_hexvals {text : List Byte} {digits : List Nibble} (h : hexvals text = some digits) :
    ∀ c ∈ text, hexval c ≠ none := by
  induction text generalizing digits with
  | nil => simp
  | cons c cs ih =>
    simp only [hexvals] at h
    split at h
    case h_1 d ds hd hds => exact List.forall_mem_cons.2 ⟨by simp [hd], ih hds⟩
    case h_2 => cases h

/-- HEXDEC decodes a hex text into RAW and goes on to IDEXT. -/
theorem execHexdec_of_hexText {s : State} (h : HexText s.txt.live) :
    ∃ raw nib, execHexdec s = .next { s with raw := raw, nib := nib, cur := 0, stage := 3#3 } ∧
      hexdec s.txt.live = some raw.live := by
  obtain ⟨bs, hbs⟩ := hexText_iff_hexdec.1 h
  obtain ⟨digits, raw, nib, cur, hdigits, hfold, hraw⟩ :=
    foldl_takeNibble_hexdec hbs (s := { s with raw := s.raw.clear, cur := 0 }) rfl
  have heven : ¬ s.txt.len % 2 = 1 := by rw [Buffer.len, h.1]; decide
  refine ⟨raw, nib, ?_, by rw [hbs, hraw]; rfl⟩
  simp only [execHexdec, if_neg heven, hdigits, hfold]
  rfl

/-- HEXDEC raises EncodingError on any other text. -/
theorem execHexdec_of_not_hexText {s : State} (h : ¬ HexText s.txt.live) :
    execHexdec s = .next (endedWith { s with cur := 0 } 2#3) := by
  obtain hraise | ⟨digits, heven, hdigits, _⟩ := execHexdec_cases s
  · exact hraise
  · exact absurd ⟨heven, digits_of_hexvals hdigits⟩ h

/-- A text is no hex text if its length is odd or one of its characters is no hex digit. -/
theorem not_hexText_iff {text : List Byte} :
    ¬ HexText text ↔ text.length % 2 = 1 ∨ ∃ c ∈ text, hexval c = none := by
  simp only [HexText, not_and_or, not_forall, not_not, exists_prop, Nat.mod_two_not_eq_zero]

/-- Settles O18: RAW is what the text decodes to, and a pair of characters has its byte there. -/
theorem hexdecCompletes : Obligations.HexdecCompletes := by
  intro s htext
  obtain ⟨raw, nib, hexec, hraw⟩ := execHexdec_of_hexText htext
  have hlen : s.txt.live.length = 2 * raw.live.length := hexdec_length hraw
  refine ⟨_, hexec, hraw, hlen.symm, fun j c0 c1 h0 h1 => ?_, rfl⟩
  have hj : j < raw.live.length := by
    have := (List.getElem?_eq_some_iff.1 h0).1
    omega
  obtain ⟨d0, d1, v0, v1, hd0, hd1, hv0, hv1, hb⟩ := hexdec_getElem? hraw (List.getElem?_eq_getElem hj)
  cases h0.symm.trans hd0
  cases h1.symm.trans hd1
  exact ⟨_, v0, v1, List.getElem?_eq_getElem hj, hv0, hv1, hb⟩

/-- Settles O19: on a hex text HEXDEC goes on to another stage, so it does not end in the error. -/
theorem hexdecRejects : Obligations.HexdecRejects := by
  intro s
  rw [exec_hexdec, Buffer.len, ← not_hexText_iff]
  refine ⟨fun hraise htext => ?_, execHexdec_of_not_hexText⟩
  obtain ⟨raw, nib, hexec, _⟩ := execHexdec_of_hexText htext
  have hstage : 3#3 = 0#3 := congrArg State.stage (Host.Outcome.next.inj (hexec.symm.trans hraise))
  exact absurd hstage (by decide)

/-! ## HEXENC -/

/-- Settles O21: the text written decodes to PLN (O20), which pins each pair of its characters. -/
theorem hexencCompletes : Obligations.HexencCompletes := fun s =>
  ⟨({ s with hex := s.hex.load (hexenc s.pln.live) } : State).goto 7#3, rfl, hexenc_length s.pln.live,
    fun _ _ hb => hexdec_getElem? (hexdec_hexenc s.pln.live) hb, fun _ hc => hexenc_range hc, rfl⟩

end Sys2Proof.FrameHexProofs
end

section
/-! SUPPORT. FRAME on a written packet: the marker check character by character, and its two outcomes (R120, R121). -/

namespace Sys2Proof.FrameHexProofs

open Sys2Proof Sys2Proof.Machine Sys2Proof.Laws Sys2Proof.MemoryProofs

theorem exec_frame (s : State) : exec .frame s = execFrame s := rfl

/-- The letter of both markers in either case (R98, R99). -/
theorem lower_eq_c : ∀ a : Byte, lower a = 0x63#8 ↔ a = 0x63#8 ∨ a = 0x43#8 := by decide

/-- The start marker is `c0` or `C0` (R99). -/
theorem isSof_iff {a b : Byte} : isSof a b = true ↔ (a = 0x63#8 ∨ a = 0x43#8) ∧ b = 0x30#8 := by
  rw [isSof_eq, Bool.and_eq_true, beq_iff_eq, beq_iff_eq, lower_eq_c]

/-- The end marker is `c2` or `C2` (R99). -/
theorem isEofm_iff {a b : Byte} : isEofm a b = true ↔ (a = 0x63#8 ∨ a = 0x43#8) ∧ b = 0x32#8 := by
  rw [isEofm_eq, Bool.and_eq_true, beq_iff_eq, beq_iff_eq, lower_eq_c]

/-- A pair read inside the packet is the packet's pair there. -/
theorem packet_getElem?_pair {s : State} {pkt : List Byte} (hpkt : s.packet = some pkt) {i : Nat} {a b : Byte}
    (hi : i + 2 ≤ s.inlen.toNat) (hread : s.inbuf.readRange i 2 = some [a, b]) :
    pkt[i]? = some a ∧ pkt[i + 1]? = some b := by
  obtain ⟨_, hcells⟩ := readRange_eq_some.1 hpkt
  obtain ⟨_, hpair⟩ := readRange_eq_some.1 hread
  rw [← hcells i (by omega), ← hcells (i + 1) (by omega), Nat.zero_add, Nat.zero_add]
  exact ⟨hpair 0 (by omega), hpair 1 (by omega)⟩

/-- A packet of four characters or more is well marked exactly when its first and its last pair are the markers. -/
theorem goodMarkers_iff {pkt : List Byte} {a b c d : Byte} (hmin : 4 ≤ pkt.length)
    (hfirst : pkt[0]? = some a ∧ pkt[1]? = some b)
    (hlast : pkt[pkt.length - 2]? = some c ∧ pkt[pkt.length - 1]? = some d) :
    GoodMarkers pkt ↔ isSof a b = true ∧ isEofm c d = true := by
  simp only [GoodMarkers, hmin, hfirst, hlast, Option.some.injEq, isSof_iff, isEofm_iff, true_and, and_assoc]

/-- FRAME on a written packet that INBUF holds: the interior under good markers, FrameError otherwise. -/
theorem execFrame_packet {s : State} {pkt : List Byte} (hpkt : s.packet = some pkt) (hcap : s.inlen.toNat ≤ s.inCap) :
    (GoodMarkers pkt ∧ execFrame s = .next (s.framed ((pkt.drop 2).take (pkt.length - 4)))) ∨
    (¬ GoodMarkers pkt ∧ execFrame s = .next (endedWith { s with cur := 0 } 1#3)) := by
  have hlen : pkt.length = s.inlen.toNat := readRange_length hpkt
  by_cases hmin : s.inlen.toNat < 4
  · exact .inr ⟨fun hgood => by have := hgood.1; omega, if_pos hmin⟩
  obtain ⟨a, b, hfirst⟩ := packet_pair hpkt (i := 0) (by omega)
  obtain ⟨c, d, hlast⟩ := packet_pair hpkt (i := s.inlen.toNat - 2) (by omega)
  have hinner := readRange_part hpkt (i := 2) (k := s.inlen.toNat - 4) (by omega)
  have hend := packet_getElem?_pair hpkt (by omega) hlast
  rw [show s.inlen.toNat - 2 + 1 = s.inlen.toNat - 1 by omega, ← hlen] at hend
  rw [goodMarkers_iff (by omega) (packet_getElem?_pair hpkt (by omega) hfirst) hend]
  unfold execFrame Config.minLen
  simp only [if_neg hmin, if_neg (Nat.not_lt.2 hcap), hfirst, hlast, hinner, hlen]
  cases isSof a b
  · exact .inr ⟨nofun, rfl⟩
  · cases isEofm c d
    · exact .inr ⟨nofun, rfl⟩
    · exact .inl ⟨⟨rfl, rfl⟩, rfl⟩

/-- Settles O16. -/
theorem frameAccepts : Obligations.FrameAccepts := by
  intro s pkt hpkt hcap hgood
  obtain ⟨_, hexec⟩ | ⟨hbad, _⟩ := execFrame_packet hpkt hcap
  · refine ⟨_, hexec, rfl, ?_, rfl⟩
    have hlen : pkt.length = s.inlen.toNat := readRange_length hpkt
    have hmin := hgood.1
    simp only [framed_txt, load_len, List.length_take, List.length_drop]
    omega
  · exact absurd hgood hbad

/-- Settles O17: under good markers FRAME goes on to another stage, so it does not end in the error. -/
theorem frameRejects : Obligations.FrameRejects := by
  intro s pkt hpkt hcap
  rw [exec_frame]
  obtain ⟨hgood, hexec⟩ | ⟨hbad, hexec⟩ := execFrame_packet hpkt hcap
  · refine ⟨fun hraise => ?_, fun hbad => absurd hgood hbad⟩
    have hstage : 2#3 = 0#3 := congrArg State.stage (Host.Outcome.next.inj (hexec.symm.trans hraise))
    exact absurd hstage (by decide)
  · exact ⟨fun _ => hbad, fun _ => hexec⟩

end Sys2Proof.FrameHexProofs
end

section
/-! SUPPORT. IDEXT: the identifier is the little-endian value of eight bytes and the rest of RAW goes to STF; a shorter
RAW is a frame error (R140 to R142). -/

namespace Sys2Proof.IdentifierProofs

open Sys2Proof Sys2Proof.Machine Sys2Proof.Laws Sys2Proof.MemoryProofs

/-! ## The width of a little-endian value -/

/-- A byte sequence's value fits in its bits. -/
theorem leNat_lt (bs : List Byte) : leNat bs < 2 ^ (8 * bs.length) := by
  have hmod : leNat bs = leNat bs % 2 ^ (8 * bs.length) := by
    rw [← leNat_leBytes, leBytes_leNat]
  rw [hmod]
  exact Nat.mod_lt _ (by positivity)

/-- A read of `n` bytes gives a value of at most `8 * n` bits (R66). -/
theorem memRead_lt (bs : List Byte) (i n : Nat) : memRead bs i n < 2 ^ (8 * n) := by
  have hlen : ((bs.drop i).take n).length ≤ n := List.length_take_le n _
  calc memRead bs i n < 2 ^ (8 * ((bs.drop i).take n).length) := leNat_lt _
    _ ≤ 2 ^ (8 * n) := Nat.pow_le_pow_right (by decide) (by omega)

/-- IDR holds the whole value of the eight bytes read (R26). -/
@[simp] theorem identifier_toNat (bs : List Byte) : (BitVec.ofNat 64 (memRead bs 0 8)).toNat = memRead bs 0 8 := by
  rw [BitVec.toNat_ofNat, Nat.mod_eq_of_lt (memRead_lt bs 0 8)]

/-- The value of eight bytes, term by term (R142). -/
theorem memRead_eight (r0 r1 r2 r3 r4 r5 r6 r7 : Byte) (rest : List Byte) :
    memRead (r0 :: r1 :: r2 :: r3 :: r4 :: r5 :: r6 :: r7 :: rest) 0 8 =
      r0.toNat + r1.toNat * 2 ^ 8 + r2.toNat * 2 ^ 16 + r3.toNat * 2 ^ 24 + r4.toNat * 2 ^ 32 +
        r5.toNat * 2 ^ 40 + r6.toNat * 2 ^ 48 + r7.toNat * 2 ^ 56 := by
  have hread : memRead (r0 :: r1 :: r2 :: r3 :: r4 :: r5 :: r6 :: r7 :: rest) 0 8 =
      leNat [r0, r1, r2, r3, r4, r5, r6, r7] := rfl
  rw [hread]
  simp only [leNat]
  omega

/-! ## The two outcomes of IDEXT -/

theorem exec_idext (s : State) : exec .idext s = execIdext s := rfl

/-- A stage that goes on to another has not ended the command. -/
theorem goto_ne_endedWith {code : BitVec 3} (hcode : code ≠ 0#3) (s t : State) (err : BitVec 3) :
    s.goto code ≠ endedWith t err :=
  fun heq => hcode (congrArg State.stage heq)

/-- Settles O22: of IDEXT's two outcomes the error needs a RAW shorter than this one. -/
theorem idextCompletes : Obligations.IdextCompletes := by
  intro s r0 r1 r2 r3 r4 r5 r6 r7 rest hraw
  have hlen : s.raw.len = rest.length + 8 := by rw [Buffer.len, hraw]; rfl
  obtain ⟨hshort, _⟩ | ⟨_, hexec⟩ := execIdext_cases s
  · omega
  · refine ⟨_, hexec, ?_, by simp [hraw], rfl⟩
    rw [goto_idr, identifier_toNat, hraw, memRead_eight]

/-- Settles O23: on eight bytes or more IDEXT goes on to another stage, so it does not end in the error. -/
theorem idextRejects : Obligations.IdextRejects := by
  intro s
  rw [exec_idext]
  obtain ⟨hshort, hexec⟩ | ⟨hmin, hexec⟩ := execIdext_cases s
  · exact ⟨fun _ => hshort, fun _ => hexec⟩
  · refine ⟨fun hraise => ?_, fun hshort => absurd hshort (by omega)⟩
    exact absurd (Host.Outcome.next.inj (hexec.symm.trans hraise)) (goto_ne_endedWith (by decide) _ _ _)

end Sys2Proof.IdentifierProofs
end

section
/-! SUPPORT. DESTUFF: the pass over STF emits `ds`, whose length is bounded by its input, and the in-place algorithm of
R151 computes the same function (R150 to R165). -/

namespace Sys2Proof.DestuffProofs

open Sys2Proof Sys2Proof.Machine Sys2Proof.Laws Sys2Proof.StateProofs

/-! ## The function `ds`, byte by byte -/

theorem ds_sentinel (xs : List Byte) : ds false (Config.sentinel :: xs) = ds true xs := by
  simp [ds]

theorem ds_lit {n : Byte} (hn : n ≠ Config.sentinel) (xs : List Byte) : ds false (n :: xs) = n :: ds false xs := by
  simp [ds, hn]

theorem ds_self (xs : List Byte) : ds true (Config.sentinel :: xs) = Config.sentinel :: ds false xs := by
  simp [ds]

theorem ds_chain (xs : List Byte) : ds true ((Config.sentinel + 1#8) :: xs) = ds true xs := by
  have hne : Config.sentinel + 1#8 ≠ Config.sentinel := by decide
  simp [ds, hne]

theorem ds_dec {n : Byte} (hn : n ≠ Config.sentinel) (hn' : n ≠ Config.sentinel + 1#8) (xs : List Byte) :
    ds true (n :: xs) = (n - 1#8) :: ds false xs := by
  simp [ds, hn, hn']

/-- After an open escape, a byte other than the sentinel stands for its predecessor read without the escape. This is
what the in-place algorithm writes back (R160). -/
theorem ds_escaped {n : Byte} (hn : n ≠ Config.sentinel) (xs : List Byte) :
    ds true (n :: xs) = ds false ((n - 1#8) :: xs) := by
  by_cases hchain : n = Config.sentinel + 1#8
  · rw [(sub_one_eq_sentinel n).2 hchain, hchain, ds_chain, ds_sentinel]
  · rw [ds_dec hn hchain, ds_lit (mt (sub_one_eq_sentinel n).1 hchain)]

/-! ## Lengths of `ds` (R162) -/

/-- A token emits at most one byte: the cases are those of `ds`, the end of the input first. -/
theorem ds_length_le (e : Bool) (xs : List Byte) : (ds e xs).length ≤ xs.length := by
  fun_induction ds e xs with
  | case1 => exact Nat.le_refl _
  | case2 _ ih => exact ih.trans (Nat.le_succ _)
  | case3 _ _ _ ih => exact Nat.succ_le_succ ih
  | case4 _ ih => exact Nat.succ_le_succ ih
  | case5 _ _ ih => exact ih.trans (Nat.le_succ _)
  | case6 _ _ _ _ ih => exact Nat.succ_le_succ ih

/-- Without an escape open, every sentinel costs a byte and nothing else does. -/
theorem ds_length_eq_iff (xs : List Byte) : (ds false xs).length = xs.length ↔ Config.sentinel ∉ xs := by
  induction xs with
  | nil => simp [ds]
  | cons n xs ih =>
    by_cases hn : n = Config.sentinel
    · have hle := ds_length_le true xs
      rw [hn, ds_sentinel, List.length_cons]
      simp only [List.mem_cons, true_or, not_true_eq_false, iff_false]
      omega
    · simp [ds_lit hn, ih, Ne.symm hn]

/-! ## The stage -/

theorem exec_destuff (s : State) : exec .destuff s = execDestuff s := rfl

/-- One byte of STF: what is emitted now and what is left to emit make up what was left before it. -/
theorem destuffByte_ds (s : State) (n : Byte) (ns : List Byte) :
    (destuffByte s n).pay.live ++ ds (destuffByte s n).esc ns = s.pay.live ++ ds s.esc (n :: ns) := by
  obtain ⟨he, hn, h⟩ | ⟨he, hn, h⟩ | ⟨he, hn, h⟩ | ⟨he, hn, h⟩ | ⟨he, hn, hn', h⟩ := destuffByte_cases s n <;>
    rw [h, he]
  · simp [hn, ds_sentinel]
  · simp [ds_lit hn]
  · simp [hn, ds_self]
  · simp [hn, ds_chain]
  · simp [ds_dec hn hn']

/-- DESTUFF's loop appends `ds` of its bytes to PAY (R165). -/
theorem foldl_destuffByte_pay (bytes : List Byte) (s : State) :
    (bytes.foldl destuffByte s).pay.live = s.pay.live ++ ds s.esc bytes := by
  induction bytes generalizing s with
  | nil => simp [ds]
  | cons n ns ih => rw [List.foldl_cons, ih, destuffByte_ds]

/-- DESTUFF's loop leaves `ds(0, STF)` in PAY and touches PAY, ESC and the cursor only. -/
theorem destuffLoop_eq (s : State) :
    ∃ pay esc cur, pay.live = ds false s.stf.live ∧
      destuffLoop s = { s with pay := pay, esc := esc, cur := cur } := by
  obtain ⟨pay, esc, cur, hloop, _⟩ :=
    foldl_destuffByte s.stf.live { s with pay := s.pay.clear, esc := false, cur := 0 }
  have hpay : (destuffLoop s).pay.live = ds false s.stf.live := foldl_destuffByte_pay s.stf.live _
  rw [destuffLoop, hloop] at hpay
  exact ⟨pay, esc, cur, hpay, hloop⟩

/-- What DESTUFF does: PAY is `ds(0, STF)`, and the stage is left with the escape closed and the cursor at 0. -/
theorem execDestuff_eq (s : State) :
    ∃ pay : Buffer, pay.live = ds false s.stf.live ∧
      execDestuff s = .next { s with pay := pay, esc := false, cur := 0, stage := 5#3 } := by
  obtain ⟨pay, esc, cur, hpay, hloop⟩ := destuffLoop_eq s
  refine ⟨pay, hpay, ?_⟩
  rw [execDestuff, hloop]
  cases esc <;> rfl

/-- Settles O24. -/
theorem destuffCompletes : Obligations.DestuffCompletes := by
  intro s
  obtain ⟨pay, hpay, hexec⟩ := execDestuff_eq s
  exact ⟨_, hexec, hpay, rfl⟩

/-- The PAY of a completed DESTUFF is `ds(0, STF)` (R165). -/
theorem pay_of_exec_destuff {s t : State} (h : exec .destuff s = .next t) : t.pay.live = ds false s.stf.live := by
  obtain ⟨pay, hpay, hexec⟩ := execDestuff_eq s
  rw [exec_destuff, hexec] at h
  cases h
  exact hpay

/-- Settles O25: the lengths are those of `ds`, and the three named inputs are evaluated. -/
theorem destuffLengths : Obligations.DestuffLengths := by
  refine ⟨fun s t h => ?_, fun s n => ?_, fun s t h hinput => ?_⟩
  · simp only [Buffer.len, pay_of_exec_destuff h]
    exact ⟨ds_length_le false _, ds_length_eq_iff _⟩
  · obtain ⟨pay, esc, hbyte, hlen⟩ := destuffByte_effect s n
    rw [hbyte]
    exact hlen
  · rw [Buffer.len, pay_of_exec_destuff h]
    obtain hstf | hstf | hstf := hinput <;> rw [hstf] <;> rfl

/-! ## The in-place algorithm (R151): one equation per case of its loop, on the bytes from the cursor on -/

section loop
variable {fuel i : Nat} {w rest out : List Byte} {b n : Byte}

theorem getElem?_of_drop {xs : List Byte} (h : w.drop i = xs) (j : Nat) : w[i + j]? = xs[j]? := by
  rw [← h, List.getElem?_drop]

theorem drop_succ_of_drop (h : w.drop i = b :: rest) : w.drop (i + 1) = rest := by
  rw [← List.tail_drop, h, List.tail_cons]

/-- At the end of the working copy the loop returns, whatever passes are left. -/
theorem inplaceLoop_end (h : w.drop i = []) : destuffInplaceLoop fuel w i out = out := by
  have hi : w[i]? = none := getElem?_of_drop h 0
  cases fuel <;> simp [destuffInplaceLoop, hi]

theorem inplaceLoop_lit (h : w.drop i = b :: rest) (hb : b ≠ Config.sentinel) :
    destuffInplaceLoop (fuel + 1) w i out = destuffInplaceLoop fuel w (i + 1) (out ++ [b]) := by
  have hi : w[i]? = some b := getElem?_of_drop h 0
  simp [destuffInplaceLoop, hi, hb]

/-- A sentinel at the end of the working copy is dropped (R158). -/
theorem inplaceLoop_open_end (h : w.drop i = [Config.sentinel]) :
    destuffInplaceLoop (fuel + 1) w i out = destuffInplaceLoop fuel w (i + 1) out := by
  have hi : w[i]? = some Config.sentinel := getElem?_of_drop h 0
  have hi₁ : w[i + 1]? = none := getElem?_of_drop h 1
  simp [destuffInplaceLoop, hi, hi₁]

theorem inplaceLoop_self (h : w.drop i = Config.sentinel :: Config.sentinel :: rest) :
    destuffInplaceLoop (fuel + 1) w i out = destuffInplaceLoop fuel w (i + 2) (out ++ [Config.sentinel]) := by
  have hi : w[i]? = some Config.sentinel := getElem?_of_drop h 0
  have hi₁ : w[i + 1]? = some Config.sentinel := getElem?_of_drop h 1
  simp [destuffInplaceLoop, hi, hi₁]

theorem inplaceLoop_write (h : w.drop i = Config.sentinel :: n :: rest) (hn : n ≠ Config.sentinel) :
    destuffInplaceLoop (fuel + 1) w i out = destuffInplaceLoop fuel (w.set (i + 1) (n - 1#8)) (i + 1) out := by
  have hi : w[i]? = some Config.sentinel := getElem?_of_drop h 0
  have hi₁ : w[i + 1]? = some n := getElem?_of_drop h 1
  simp [destuffInplaceLoop, hi, hi₁, hn]

/-- The byte written back is the first of the bytes still to be read. -/
theorem drop_set_of_drop (h : w.drop i = b :: n :: rest) (v : Byte) : (w.set (i + 1) v).drop (i + 1) = v :: rest := by
  rw [List.drop_set, if_neg (lt_irrefl _), drop_succ_of_drop h, Nat.sub_self, List.set_cons_zero]

end loop

/-- With a pass left for every byte from the cursor on, the loop appends `ds` of those bytes to its output. -/
theorem inplaceLoop_eq_ds (fuel : Nat) (w : List Byte) (i : Nat) (out : List Byte) (hfuel : w.length ≤ i + fuel) :
    destuffInplaceLoop fuel w i out = out ++ ds false (w.drop i) := by
  induction fuel generalizing w i out with
  | zero =>
    have hend : w.drop i = [] := List.drop_eq_nil_of_le hfuel
    rw [inplaceLoop_end hend, hend, ds, List.append_nil]
  | succ fuel ih =>
    match h : w.drop i with
    | [] => rw [inplaceLoop_end h, ds, List.append_nil]
    | b :: rest =>
      have hrest : w.drop (i + 1) = rest := drop_succ_of_drop h
      by_cases hb : b = Config.sentinel
      · subst hb
        match rest with
        | [] => rw [inplaceLoop_open_end h, inplaceLoop_end hrest, ds_sentinel, ds, List.append_nil]
        | n :: rest =>
          rw [ds_sentinel]
          by_cases hn : n = Config.sentinel
          · subst hn
            rw [inplaceLoop_self h, ih _ _ _ (by omega), drop_succ_of_drop hrest, ds_self, List.append_assoc,
              List.singleton_append]
          · rw [inplaceLoop_write h hn, ih _ _ _ (by rw [List.length_set]; omega), drop_set_of_drop h,
              ds_escaped hn]
      · rw [inplaceLoop_lit h hb, ih _ _ _ (by omega), hrest, ds_lit hb, List.append_assoc, List.singleton_append]

/-- Settles O26: both sides are `ds(0, STF)`. -/
theorem destuffEqualsInplace : Obligations.DestuffEqualsInplace := by
  rintro s t x rfl h
  calc t.pay.live = ds false s.stf.live := pay_of_exec_destuff h
    _ = destuffInplace s.stf.live := (inplaceLoop_eq_ds s.stf.live.length _ 0 [] (by omega)).symm

end Sys2Proof.DestuffProofs
end

section
/-! SUPPORT. The block routine: one round's key words, the SUM schedule, and the encrypt routine as its inverse (R175 to
R186). -/

namespace Sys2Proof.CipherProofs

open Sys2Proof Sys2Proof.Machine Sys2Proof.Laws Sys2Proof.MemoryProofs Sys2Proof.IdentifierProofs

/-! ## One round -/

/-- The key words listed by index (R22). -/
theorem keyWord_listed (k : KeyWords) (i : BitVec 2) : [k.k0, k.k1, k.k2, k.k3][i.toNat]? = some (keyWord k i) := by
  have hcases : ∀ i : BitVec 2, i = 0#2 ∨ i = 1#2 ∨ i = 2#2 ∨ i = 3#2 := by decide
  obtain rfl | rfl | rfl | rfl := hcases i <;> rfl

/-- Masking with 3 gives the index in the two lowest bits. -/
theorem and_three_toNat (x : Word) : (x &&& 3#32).toNat = (x.extractLsb' 0 2).toNat := by
  rw [BitVec.toNat_and, BitVec.extractLsb'_toNat, Nat.shiftRight_zero]
  exact Nat.and_two_pow_sub_one_eq_mod x.toNat 2

theorem keyWord_masked (k : KeyWords) (x : Word) :
    [k.k0, k.k1, k.k2, k.k3][(x &&& 3#32).toNat]? = some (keyWord k (x.extractLsb' 0 2)) := by
  rw [and_three_toNat, keyWord_listed]

/-- Settles O31: the assignments hold by definition once the two key words are named. -/
theorem roundFollowsTheRule : Obligations.RoundFollowsTheRule := by
  intro k c
  exact ⟨keyWord k (keyIndexA c.sum), keyWord k (keyIndexC (c.sum - Config.delta)),
    keyWord_masked k (c.sum >>> 11), keyWord_masked k (c.sum - Config.delta), rfl, rfl, rfl⟩

/-! ## The rounds, the last one split off, and the counters they leave -/

theorem xteaRounds_succ (k : KeyWords) (n : Nat) (c : Cip) :
    xteaRounds k (n + 1) c = xteaRound k (xteaRounds k n c) := by
  induction n generalizing c with
  | zero => rfl
  | succ n ih => exact ih (xteaRound k c)

theorem xteaEncRounds_succ (k : KeyWords) (n : Nat) (c : Cip) :
    xteaEncRounds k (n + 1) c = xteaEncRound k (xteaEncRounds k n c) := by
  induction n generalizing c with
  | zero => rfl
  | succ n ih => exact ih (xteaEncRound k c)

/-- SUM and RND after `n` rounds depend on neither key nor data (R184). -/
theorem xteaRounds_counters (k : KeyWords) (n : Nat) (c : Cip) :
    (xteaRounds k n c).sum = c.sum - Config.delta * BitVec.ofNat 32 n ∧
      (xteaRounds k n c).rnd = c.rnd - BitVec.ofNat 6 n := by
  induction n with
  | zero => simp [xteaRounds]
  | succ n ih =>
    obtain ⟨hsum, hrnd⟩ := ih
    rw [xteaRounds_succ]
    simp only [xteaRound, hsum, hrnd, BitVec.ofNat_add, BitVec.mul_add, BitVec.mul_one, BitVec.sub_sub, and_self]

theorem xteaEncRounds_counters (k : KeyWords) (n : Nat) (c : Cip) :
    (xteaEncRounds k n c).sum = c.sum + Config.delta * BitVec.ofNat 32 n ∧
      (xteaEncRounds k n c).rnd = c.rnd + BitVec.ofNat 6 n := by
  induction n with
  | zero => simp [xteaEncRounds]
  | succ n ih =>
    obtain ⟨hsum, hrnd⟩ := ih
    rw [xteaEncRounds_succ]
    simp only [xteaEncRound, hsum, hrnd, BitVec.ofNat_add, BitVec.mul_add, BitVec.mul_one, BitVec.add_assoc, and_self]

/-! ## The SUM schedule -/

/-- SUM when `r` rounds of a block have run (R184). -/
def scheduledSum (r : Nat) : Word := Config.delta * BitVec.ofNat 32 (32 - r)

theorem sum_eq_scheduled (k : KeyWords) (chunk : List Byte) {r : Nat} (hr : r ≤ 32) :
    (xteaRounds k r (blockLoad chunk)).sum = scheduledSum r := by
  calc (xteaRounds k r (blockLoad chunk)).sum
      = Config.delta * BitVec.ofNat 32 32 - Config.delta * BitVec.ofNat 32 r := (xteaRounds_counters k r _).1
    _ = Config.delta * (BitVec.ofNat 32 32 - BitVec.ofNat 32 r) := BitVec.mul_sub.symm
    _ = scheduledSum r := by rw [BitVec.ofNat_sub_ofNat_of_le 32 r (by omega) hr]; rfl

/-- After the block routine SUM is 0 (R184). -/
theorem blockRun_sum (k : KeyWords) (chunk : List Byte) : (blockRun k chunk).sum = 0#32 :=
  (sum_eq_scheduled k chunk (le_refl 32)).trans (by decide)

/-- R184's list is what the schedule selects: (a) before the round's decrement, (c) after it. -/
theorem keyIndices_scheduled : keyIndices = (List.range 32).map fun r =>
    ((keyIndexA (scheduledSum r)).toNat, (keyIndexC (scheduledSum (r + 1))).toNat) := by decide

/-- Settles O32: the key words of a round are those at the indices its scheduled SUM selects. -/
theorem sumSchedule : Obligations.SumSchedule := by
  refine ⟨fun k chunk r hr => sum_eq_scheduled k chunk hr, blockRun_sum, fun k chunk r ia ic hindex => ?_⟩
  obtain ⟨hr, rfl, rfl⟩ : r < 32 ∧ (keyIndexA (scheduledSum r)).toNat = ia ∧
      (keyIndexC (scheduledSum (r + 1))).toNat = ic := by
    simpa [keyIndices_scheduled, List.getElem?_eq_some_iff] using hindex
  have hbefore := sum_eq_scheduled k chunk (r := r) (by omega)
  have hafter := sum_eq_scheduled k chunk (r := r + 1) (by omega)
  rw [← hbefore, ← hafter, xteaRounds_succ]
  exact ⟨_, _, keyWord_listed k _, keyWord_listed k _, rfl, rfl⟩

/-! ## The rounds undone (R186) -/

theorem xteaEncRound_xteaRound (k : KeyWords) (c : Cip) : xteaEncRound k (xteaRound k c) = c := by
  simp [xteaEncRound, xteaRound]

theorem xteaRound_xteaEncRound (k : KeyWords) (c : Cip) : xteaRound k (xteaEncRound k c) = c := by
  simp [xteaEncRound, xteaRound]

theorem xteaEncRounds_xteaRounds (k : KeyWords) (n : Nat) (c : Cip) : xteaEncRounds k n (xteaRounds k n c) = c := by
  induction n with
  | zero => rfl
  | succ n ih => rw [xteaRounds_succ, xteaEncRounds, xteaEncRound_xteaRound, ih]

theorem xteaRounds_xteaEncRounds (k : KeyWords) (n : Nat) (c : Cip) : xteaRounds k n (xteaEncRounds k n c) = c := by
  induction n with
  | zero => rfl
  | succ n ih => rw [xteaEncRounds_succ, xteaRounds, xteaRound_xteaEncRound, ih]

/-! ## The block's load and store -/

/-- The datapath with a block in V0 and V1 (R179), as both routines start from it, each with its own SUM and RND. -/
def loadedWith (block : List Byte) (sum : Word) (rnd : BitVec 6) : Cip where
  v0 := BitVec.ofNat 32 (memRead block 0 4)
  v1 := BitVec.ofNat 32 (memRead block 4 4)
  sum := sum
  rnd := rnd

theorem xteaDec_eq (key block : List Byte) :
    xteaDec key block = blockStore (xteaRounds (keySplit key) 32 (loadedWith block Config.sum0 32#6)) := rfl

theorem xteaEnc_eq (key block : List Byte) :
    xteaEnc key block = blockStore (xteaEncRounds (keySplit key) 32 (loadedWith block 0#32 0#6)) := rfl

@[simp] theorem xteaDec_length (key block : List Byte) : (xteaDec key block).length = 8 := blockStore_length _

@[simp] theorem xteaEnc_length (key block : List Byte) : (xteaEnc key block).length = 8 := blockStore_length _

/-- Loading a stored block gives the data words back. -/
theorem loadedWith_blockStore {c : Cip} {sum : Word} {rnd : BitVec 6} (hsum : c.sum = sum) (hrnd : c.rnd = rnd) :
    loadedWith (blockStore c) sum rnd = c := by
  subst hsum hrnd
  have hv0 : memRead (blockStore c) 0 4 = leNat (leBytes 4 c.v0.toNat) := by
    rw [memRead, blockStore, List.drop_zero, List.take_left' (leBytes_length 4 _)]
  have hv1 : memRead (blockStore c) 4 4 = leNat (leBytes 4 c.v1.toNat) := by
    rw [memRead, blockStore, List.drop_left' (leBytes_length 4 _), List.take_of_length_le (leBytes_length 4 _).le]
  have hword (v : Word) : BitVec.ofNat 32 (leNat (leBytes 4 v.toNat)) = v := by
    rw [leNat_leBytes, Nat.mod_eq_of_lt v.isLt, BitVec.ofNat_toNat, BitVec.setWidth_eq]
  rw [loadedWith, hv0, hv1, hword, hword]

/-- Storing a word gives the four bytes back that it was read from. -/
theorem leBytes_memRead {bs : List Byte} {i : Nat} (h : i + 4 ≤ bs.length) :
    leBytes 4 (BitVec.ofNat 32 (memRead bs i 4)).toNat = (bs.drop i).take 4 := by
  have hlen : ((bs.drop i).take 4).length = 4 := by rw [List.length_take, List.length_drop]; omega
  have hback := leBytes_leNat ((bs.drop i).take 4)
  rw [hlen] at hback
  rw [BitVec.toNat_ofNat, Nat.mod_eq_of_lt (memRead_lt bs i 4), memRead, hback]

/-- Storing a loaded block gives the block back. -/
theorem blockStore_loadedWith {block : List Byte} (h : block.length = 8) (sum : Word) (rnd : BitVec 6) :
    blockStore (loadedWith block sum rnd) = block := by
  have hrest : (block.drop 4).take 4 = block.drop 4 := List.take_of_length_le (by rw [List.length_drop, h])
  rw [blockStore, loadedWith, leBytes_memRead (by omega), leBytes_memRead (by omega), hrest, List.drop_zero,
    List.take_append_drop]

/-- Settles O33: the counters where one routine ends are those the other starts from, so storing and loading between
them is undone and so is every round. -/
theorem decryptIsABijection : Obligations.DecryptIsABijection := by
  intro key block _ hblock
  refine ⟨xteaDec_length key block, xteaEnc_length key block, ?_, ?_⟩
  · obtain ⟨hsum, hrnd⟩ := xteaEncRounds_counters (keySplit key) 32 (loadedWith block 0#32 0#6)
    have hsum' := hsum.trans (show 0#32 + Config.delta * 32#32 = Config.sum0 by decide)
    have hrnd' := hrnd.trans (show 0#6 + 32#6 = 32#6 by decide)
    rw [xteaDec_eq, xteaEnc_eq, loadedWith_blockStore hsum' hrnd', xteaRounds_xteaEncRounds,
      blockStore_loadedWith hblock]
  · obtain ⟨hsum, hrnd⟩ := xteaRounds_counters (keySplit key) 32 (loadedWith block Config.sum0 32#6)
    have hsum' := hsum.trans (show Config.sum0 - Config.delta * 32#32 = 0#32 by decide)
    have hrnd' := hrnd.trans (show 32#6 - 32#6 = 0#6 by decide)
    rw [xteaEnc_eq, xteaDec_eq, loadedWith_blockStore hsum' hrnd', xteaEncRounds_xteaRounds,
      blockStore_loadedWith hblock]

end Sys2Proof.CipherProofs
end

section
/-! SUPPORT. CIPHER: the cutting of PAY into chunks, the loop over whole blocks, and the stage's four outcomes (R170 to
R182). -/

namespace Sys2Proof.CipherProofs

open Sys2Proof Sys2Proof.Machine Sys2Proof.Laws Sys2Proof.StateProofs

/-! ## The chunks (R171) -/

/-- A byte sequence of at most one block is its own chunk. -/
theorem chunks_single {bs : List Byte} (hne : bs ≠ []) (hlen : bs.length ≤ 8) : chunks bs = [bs] := by
  rw [chunks_cons hne, List.take_of_length_le hlen, List.drop_eq_nil_of_le hlen, chunks_nil]

/-- Whole blocks are cut off without regard to what follows. -/
theorem chunks_append {a : List Byte} (ha : a.length % 8 = 0) (b : List Byte) :
    chunks (a ++ b) = chunks a ++ chunks b := by
  obtain ⟨n, hn⟩ := Nat.dvd_of_mod_eq_zero ha
  induction n generalizing a with
  | zero => rw [List.length_eq_zero_iff.1 hn]; rfl
  | succ n ih =>
    have hne : a ≠ [] := List.ne_nil_of_length_pos (by omega)
    have hdrop : (a.drop 8).length = 8 * n := by rw [List.length_drop]; omega
    rw [chunks_cons hne, chunks_cons (List.append_ne_nil_of_left_ne_nil hne b),
      List.take_append_of_le_length (by omega), List.drop_append_of_le_length (by omega), ih (by omega) hdrop,
      List.cons_append]

/-- Whole blocks are cut into whole blocks. -/
theorem whole_chunks {bs : List Byte} (h : bs.length % 8 = 0) : ∀ c ∈ chunks bs, c.length = 8 := by
  obtain ⟨n, hn⟩ := Nat.dvd_of_mod_eq_zero h
  induction n generalizing bs with
  | zero => simp [List.length_eq_zero_iff.1 hn]
  | succ n ih =>
    rw [chunks_cons (List.ne_nil_of_length_pos (by omega)), List.forall_mem_cons, List.length_take]
    have hdrop : (bs.drop 8).length = 8 * n := by rw [List.length_drop]; omega
    exact ⟨by omega, ih (by omega) hdrop⟩

/-- Any other byte sequence is whole blocks and then one shorter chunk. -/
theorem chunks_short {bs : List Byte} (h : bs.length % 8 ≠ 0) :
    ∃ whole last, chunks bs = whole ++ [last] ∧ (∀ c ∈ whole, c.length = 8) ∧ last.length ≠ 8 := by
  have hlen : (bs.take (bs.length / 8 * 8)).length % 8 = 0 := by rw [List.length_take]; omega
  have hlast : (bs.drop (bs.length / 8 * 8)).length = bs.length % 8 := by rw [List.length_drop]; omega
  refine ⟨chunks (bs.take (bs.length / 8 * 8)), bs.drop (bs.length / 8 * 8), ?_, whole_chunks hlen, by omega⟩
  rw [← chunks_single (List.ne_nil_of_length_pos (by omega)) (by omega), ← chunks_append hlen, List.take_append_drop]

/-! ## The plaintext -/

/-- Settles O34: the plaintext is a map over the chunks, and whole blocks are cut off by themselves. -/
theorem blocksAreIndependent : Obligations.BlocksAreIndependent := by
  refine ⟨fun key a b ha => ?_, fun key a ha => ?_⟩
  · rw [decryptAll, chunks_append ha, List.flatMap_append]; rfl
  · rw [decryptAll, chunks_single (List.ne_nil_of_length_pos (by omega)) ha.le, List.flatMap_singleton]

/-- Whole blocks have a plaintext of their own length. -/
theorem decryptAll_length {pay : List Byte} (key : List Byte) (h : pay.length % 8 = 0) :
    (decryptAll key pay).length = pay.length := by
  rw [length_of_whole_chunks (whole_chunks h), decryptAll]
  simp [List.length_flatMap, Nat.mul_comm]

/-! ## The loop -/

section loop
variable {key chunk : List Byte} {whole rest : List (List Byte)} {s : State}

theorem cipherLoop_keyError (hlen : s.keylen.toNat ≠ 16) : cipherLoop (chunk :: rest) s = .next (s.raise .key) := by
  obtain ⟨_, h⟩ | ⟨hk, _⟩ | ⟨hk, _⟩ | ⟨_, hk, _⟩ := cipherLoop_cons chunk rest s
  · exact h
  all_goals exact absurd hk hlen

theorem cipherLoop_blockError (hlen : s.keylen.toNat = 16) (hchunk : chunk.length ≠ 8) :
    cipherLoop (chunk :: rest) s = .next (s.raise .block) := by
  obtain ⟨hk, _⟩ | ⟨_, _, h⟩ | ⟨_, hc, _⟩ | ⟨_, _, hc, _⟩ := cipherLoop_cons chunk rest s
  · exact absurd hlen hk
  · exact h
  all_goals exact absurd hc hchunk

theorem cipherLoop_block (hlen : s.keylen.toNat = 16) (hkey : s.key = some key) (hchunk : chunk.length = 8) :
    cipherLoop (chunk :: rest) s = cipherLoop rest (s.decryptChunk key chunk) := by
  obtain ⟨hk, _⟩ | ⟨_, hc, _⟩ | ⟨_, _, hnone, _⟩ | ⟨key', _, _, hkey', h⟩ := cipherLoop_cons chunk rest s
  · exact absurd hlen hk
  · exact absurd hchunk hc
  · exact absurd (hkey.symm.trans hnone) (Option.some_ne_none key)
  · rw [h, Option.some.inj (hkey.symm.trans hkey')]

/-- Under a written 16-byte key the loop decrypts the whole blocks it meets, one after the other. -/
theorem cipherLoop_whole (hlen : s.keylen.toNat = 16) (hkey : s.key = some key) (hwhole : ∀ c ∈ whole, c.length = 8) :
    cipherLoop (whole ++ rest) s = cipherLoop rest (whole.foldl (·.decryptChunk key ·) s) := by
  induction whole generalizing s with
  | nil => rfl
  | cons chunk whole ih =>
    obtain ⟨hchunk, hwhole⟩ := List.forall_mem_cons.1 hwhole
    rw [List.cons_append, cipherLoop_block hlen hkey hchunk, List.foldl_cons]
    exact ih hlen hkey hwhole

/-- Decrypting blocks touches PLN, the key words, the datapath and the cursor only; the last block leaves the key words
of the key and SUM at 0. -/
theorem foldl_decryptChunk (key : List Byte) (blocks : List (List Byte)) (s : State) :
    ∃ k cip pln cur, blocks.foldl (·.decryptChunk key ·) s = { s with k := k, cip := cip, pln := pln, cur := cur } ∧
      pln.live = s.pln.live ++ blocks.flatMap (xteaDec key) ∧
      (blocks ≠ [] → k = keySplit key ∧ cip.sum = 0#32) := by
  induction blocks using List.reverseRecOn with
  | nil => exact ⟨_, _, _, _, rfl, by simp, by simp⟩
  | append_singleton blocks chunk ih =>
    obtain ⟨k, cip, pln, cur, hfold, hpln, _⟩ := ih
    rw [List.foldl_concat, hfold]
    refine ⟨_, _, _, _, rfl, ?_, fun _ => ⟨rfl, blockRun_sum _ _⟩⟩
    rw [append_live, hpln, List.flatMap_append, List.flatMap_singleton, List.append_assoc]
    rfl

end loop

/-! ## The stage -/

/-- The state CIPHER's loop starts from: PLNLEN and CUR cleared (R170). -/
def atFirstChunk (s : State) : State := { s with pln := s.pln.clear, cur := 0 }

theorem exec_cipher (s : State) : exec .cipher s = cipherLoop (chunks s.pay.live) (atFirstChunk s) := rfl

/-- Settles O27: the loop decrypts every chunk of PAY. -/
theorem cipherCompletes : Obligations.CipherCompletes := by
  intro s key hlen hkey hpay
  have hloop := cipherLoop_whole (rest := []) (s := atFirstChunk s) (congrArg BitVec.toNat hlen) hkey
    (whole_chunks hpay)
  obtain ⟨k, cip, pln, cur, hfold, hpln, hlast⟩ := foldl_decryptChunk key (chunks s.pay.live) (atFirstChunk s)
  rw [List.append_nil, hfold] at hloop
  refine ⟨_, (exec_cipher s).trans hloop, hpln, ?_, fun hne => hlast ?_, rfl⟩
  · exact (congrArg List.length hpln).trans (decryptAll_length key hpay)
  · rw [chunks_cons (List.ne_nil_of_length_pos (Nat.pos_of_ne_zero hne))]
    exact List.cons_ne_nil _ _

/-- Settles O28. -/
theorem cipherWithoutChunks : Obligations.CipherWithoutChunks := by
  intro s hpay
  rw [exec_cipher, List.length_eq_zero_iff.1 hpay]
  exact ⟨_, rfl, rfl, rfl⟩

/-- Settles O29: the first chunk meets the key check. -/
theorem cipherKeyError : Obligations.CipherKeyError := by
  intro s hpay hlen
  have hlen' : s.keylen.toNat ≠ 16 := fun h => hlen (BitVec.eq_of_toNat_eq h)
  rw [exec_cipher, chunks_cons (List.ne_nil_of_length_pos (Nat.pos_of_ne_zero hpay)),
    cipherLoop_keyError (s := atFirstChunk s) hlen']
  exact ⟨_, rfl, rfl, rfl⟩

/-- Settles O30: the whole blocks are decrypted and the chunk after them meets the length check. -/
theorem cipherBlockError : Obligations.CipherBlockError := by
  intro s key hlen hkey hpay
  have hlen' : s.keylen.toNat = 16 := congrArg BitVec.toNat hlen
  obtain ⟨whole, last, hchunks, hwhole, hlast⟩ := chunks_short hpay
  obtain ⟨k, cip, pln, cur, hfold, -⟩ := foldl_decryptChunk key whole (atFirstChunk s)
  rw [exec_cipher, hchunks, cipherLoop_whole (s := atFirstChunk s) hlen' hkey hwhole, hfold]
  exact ⟨_, cipherLoop_blockError hlen' hlast, rfl⟩

end Sys2Proof.CipherProofs
end

section
/-! SUPPORT. START: inside the launch premise it is accepted, and outside it is ignored or refused (R201, R202, R253). -/

namespace Sys2Proof.CommandProofs

open Sys2Proof Sys2Proof.Machine Sys2Proof.Laws Sys2Proof.StateProofs

/-- Inside the launch premise START is accepted (R201, R253). -/
theorem execStart_accepts {s : State} (h : LaunchPremise s) (ignored : BitVec 31) :
    execStart ignored s = .next s.accept := by
  obtain ⟨hidle, hcap, hpacket, hkey⟩ := h
  obtain ⟨hbusy, _⟩ | ⟨_, hover, _⟩ | ⟨_, _, hmissing, _⟩ | ⟨_, _, _, _, he⟩ := execStart_cases ignored s
  · exact absurd (hidle.symm.trans hbusy) (by decide)
  · omega
  · obtain hnone | ⟨hlen, hnone⟩ := hmissing
    · simp [hnone] at hpacket
    · simpa [hnone] using hkey hlen
  · exact he

/-- A range with an unwritten cell does not read (R56). -/
theorem readRange_eq_none {m : Memory} {i n j : Nat} (hj : j < n) (h : m.read (i + j) = none) :
    m.readRange i n = none := by
  by_contra hread
  obtain ⟨bs, hbs⟩ := Option.ne_none_iff_exists'.1 hread
  obtain ⟨hlen, hcells⟩ := readRange_eq_some.1 hbs
  have hcell := hcells j hj
  rw [h, List.getElem?_eq_getElem (by omega)] at hcell
  cases hcell

/-- An idle CORE refuses a START that would read an unwritten cell (R253, U2). -/
theorem execStart_unwritten {s : State} (hidle : s.busy = false) (hcap : s.inlen.toNat ≤ s.inCap)
    (hmissing : s.packet = none ∨ (s.keylen.toNat = 16 ∧ s.key = none)) (ignored : BitVec 31) :
    execStart ignored s = .refused .unwrittenCell := by
  obtain ⟨hbusy, _⟩ | ⟨_, hover, _⟩ | ⟨_, _, _, he⟩ | ⟨_, _, hpacket, hkey, _⟩ := execStart_cases ignored s
  · exact absurd (hidle.symm.trans hbusy) (by decide)
  · omega
  · exact he
  · obtain hnone | ⟨hlen, hnone⟩ := hmissing
    · simp [hnone] at hpacket
    · simpa [hnone] using hkey hlen

/-- Settles O14. -/
theorem startAccepted : Obligations.StartAccepted := by
  intro s ignored h
  exact ⟨s.accept, execStart_accepts h ignored, rfl, rfl, rfl, rfl, rfl, rfl, rfl⟩

/-- Settles O15: a clause of `execStart`'s conditions each. -/
theorem startIgnoredOrRefused : Obligations.StartIgnoredOrRefused := by
  intro s ignored
  rw [exec_start]
  refine ⟨fun hbusy => ?_, fun hidle hover => ?_, fun hidle hcap hcell => ?_, fun hidle hcap hlen hcell => ?_⟩
  · simp [execStart, hbusy]
  · simp [execStart, hidle, hover]
  · obtain ⟨i, hi, hnone⟩ := hcell
    exact execStart_unwritten hidle hcap (.inl (readRange_eq_none hi (by rwa [Nat.zero_add]))) ignored
  · obtain ⟨i, hi, hnone⟩ := hcell
    exact execStart_unwritten hidle hcap
      (.inr ⟨congrArg BitVec.toNat hlen, readRange_eq_none hi (by rwa [Nat.zero_add])⟩) ignored

end Sys2Proof.CommandProofs
end

section
/-! SUPPORT. TRIM: its two outcomes by the length of HEX, the result cell by cell, and that the last four characters are
not read (R200, R213, R214). -/

namespace Sys2Proof.CommandProofs

open Sys2Proof Sys2Proof.Machine Sys2Proof.Laws Sys2Proof.StateProofs

theorem exec_trim (s : State) : exec .trim s = execTrim s := rfl

/-- TRIM commits a result that fits OUTBUF. -/
theorem execTrim_commits {s : State} (hmin : 4 ≤ s.hex.len) (hroom : s.hex.len - 4 ≤ s.inCap) :
    execTrim s = .next s.trimmed := by
  obtain ⟨_, _⟩ | ⟨_, _, _⟩ | ⟨_, _, he⟩ := execTrim_cases s
  · omega
  · omega
  · exact he

/-- TRIM rejects a text shorter than the checksum. -/
theorem execTrim_short {s : State} (h : s.hex.len < 4) : execTrim s = .next (s.enter.raise .checksum) := if_pos h

/-- The cells of OUTBUF after TRIM: the text without its last four characters, then what was there before. -/
theorem trimmed_outbuf_read (s : State) (i : Nat) :
    s.trimmed.outbuf.read i = if i < s.hex.len - 4 then s.hex.live[i]? else s.outbuf.read i := by
  have hlen : (s.hex.live.take (s.hex.len - 4)).length = s.hex.len - 4 :=
    List.length_take_of_le (Nat.sub_le s.hex.len 4)
  rw [trimmed_outbuf, Config.ckChars, read_writeRange, hlen]
  by_cases hi : i < s.hex.len - 4
  · rw [if_pos (by omega), if_pos hi, Nat.sub_zero, List.getElem?_take_of_lt hi]
  · rw [if_neg (by omega), if_neg hi]

/-- Settles O36. -/
theorem trimCompletes : Obligations.TrimCompletes := by
  intro s hmin hroom
  refine ⟨s.trimmed, execTrim_commits hmin hroom, fun i hi => ?_, fun i hi => ?_, rfl⟩
  · rw [trimmed_outbuf_read, if_pos hi]
  · rw [trimmed_outbuf_read, if_neg (by omega)]

/-- Settles O37: on four characters or more TRIM is a fault or ends without an error. -/
theorem trimRejects : Obligations.TrimRejects := by
  intro s
  rw [exec_trim]
  refine ⟨fun hraise => ?_, execTrim_short⟩
  obtain ⟨hshort, _⟩ | ⟨_, _, he⟩ | ⟨_, _, he⟩ := execTrim_cases s
  · exact hshort
  · rw [he] at hraise; cases hraise
  · have herr : 0#3 = 5#3 := congrArg State.err (Host.Outcome.next.inj (he.symm.trans hraise))
    exact absurd herr (by decide)

/-- On a text split before its last four characters, TRIM commits what stands before them. -/
theorem trimmed_of_split {s : State} {body check : List Byte} (hcheck : check.length = 4)
    (hhex : s.hex.live = body ++ check) :
    s.trimmed = { s with
      outbuf := s.outbuf.writeRange 0 body, outlen := BitVec.ofNat 32 body.length, ident := s.idr, err := 0#3,
      busy := false, done := true, cur := body.length, stage := 0#3 } := by
  have hlen : s.hex.len - Config.ckChars = body.length := by
    rw [Buffer.len, hhex, List.length_append, hcheck]; rfl
  rw [State.trimmed, hlen, hhex, List.take_left]

/-- Settles O38: both texts have the same length and the same characters before the last four. -/
theorem trimNeverReadsTheChecksum : Obligations.TrimNeverReadsTheChecksum := by
  intro s body check check' hcheck hcheck' hhex t ht
  have hlen : s.hex.len = body.length + 4 := by rw [Buffer.len, hhex, List.length_append, hcheck]
  rw [exec_trim] at ht ⊢
  obtain ⟨hshort, _⟩ | ⟨_, _, he⟩ | ⟨_, hroom, he⟩ := execTrim_cases s
  · omega
  · rw [he] at ht; cases ht
  · rw [he] at ht
    cases ht
    have hlen' : (body ++ check').length = body.length + 4 := by rw [List.length_append, hcheck']
    rw [execTrim_commits (by rw [Buffer.len, hlen']; omega) (by rw [Buffer.len, hlen']; dsimp only; omega),
      trimmed_of_split hcheck' rfl, trimmed_of_split hcheck hhex]

end Sys2Proof.CommandProofs
end

section
/-! SUPPORT. `decode` (R210) stage by stage: what each stage makes of its input, the table of outcomes (R215) and the
shape of a success (R212, R214). -/

namespace Sys2Proof.CommandProofs

open Sys2Proof Sys2Proof.Machine Sys2Proof.Laws Sys2Proof.StateProofs Sys2Proof.FrameHexProofs
open Sys2Proof.CipherProofs Sys2Proof.IdentifierProofs

/-! ## The markers -/

/-- `decode` accepts the markers of exactly the well-marked packets (R99, R121). -/
theorem hasMarkers_iff (pkt : List Byte) : hasMarkers pkt = true ↔ GoodMarkers pkt := by
  by_cases hmin : 4 ≤ pkt.length
  · obtain ⟨a, b, hfirst⟩ := List.length_eq_two.1 (show (pkt.take 2).length = 2 by rw [List.length_take]; omega)
    obtain ⟨c, d, hlast⟩ := List.length_eq_two.1
      (show (pkt.drop (pkt.length - 2)).length = 2 by rw [List.length_drop]; omega)
    have hread (j : Nat) : pkt[pkt.length - 2 + j]? = [c, d][j]? := by rw [← hlast, List.getElem?_drop]
    have hstart {j : Nat} (hj : j < 2) : pkt[j]? = [a, b][j]? := by rw [← hfirst, List.getElem?_take_of_lt hj]
    have hend : pkt[pkt.length - 1]? = some d := by
      rw [show pkt.length - 1 = pkt.length - 2 + 1 by omega]; exact hread 1
    rw [goodMarkers_iff hmin ⟨hstart (by decide), hstart (by decide)⟩ ⟨hread 0, hend⟩]
    simp [hasMarkers, hfirst, hlast, Config.minLen, hmin]
  · refine iff_of_false ?_ fun hgood => hmin hgood.1
    unfold hasMarkers Config.minLen
    split <;> simp [hmin]

/-! ## The stages of `decode` -/

/-- The last stage of `decode`: the text without its checksum characters (R200, R213). -/
def trimText (hex : List Byte) : Except ErrorKind (List Byte) :=
  if hex.length < 4 then .error .checksum else .ok (hex.take (hex.length - 4))

/-- `decode` from the payload on, with the identifier already known. -/
def decodeFrom (key : List Byte) (identifier : DWord) (pay : List Byte) : Except ErrorKind DecodedFrame :=
  (decodePayload key pay).map (DecodedFrame.mk identifier)

/-- `decode` from the decoded bytes on. -/
def decodeRaw (key raw : List Byte) : Except ErrorKind DecodedFrame :=
  if raw.length < 8 then .error .frame
  else decodeFrom key (BitVec.ofNat 64 (memRead raw 0 8)) (ds false (raw.drop 8))

/-- `decode` from the interior of the packet on. -/
def decodeText (key text : List Byte) : Except ErrorKind DecodedFrame :=
  (hexdec text).elim (.error .encoding) (decodeRaw key)

theorem decodePacket_bad {pkt : List Byte} (h : ¬ GoodMarkers pkt) (key : List Byte) :
    decodePacket pkt key = .error .frame :=
  if_neg (mt (hasMarkers_iff pkt).1 h)

theorem decodePacket_good {pkt : List Byte} (h : GoodMarkers pkt) (key : List Byte) :
    decodePacket pkt key = decodeText key ((pkt.drop 2).take (pkt.length - 4)) := by
  unfold decodePacket decodeText decodeRaw decodeFrom
  rw [if_pos ((hasMarkers_iff pkt).2 h), packetInterior]
  cases hexdec ((pkt.drop 2).take (pkt.length - 4)) with
  | none => rfl
  | some raw =>
    dsimp only [Option.elim, Config.idLen]
    cases decodePayload key (ds false (raw.drop 8)) <;> rfl

theorem decodeText_bad {text : List Byte} (h : ¬ HexText text) (key : List Byte) :
    decodeText key text = .error .encoding := by
  have hnone : hexdec text = none := by
    by_contra hsome
    exact h (hexText_iff_hexdec.2 (Option.ne_none_iff_exists'.1 hsome))
  rw [decodeText, hnone]; rfl

theorem decodeText_of_hexdec {text raw : List Byte} (h : hexdec text = some raw) (key : List Byte) :
    decodeText key text = decodeRaw key raw := by
  rw [decodeText, h]; rfl

theorem decodeRaw_short {raw : List Byte} (h : raw.length < 8) (key : List Byte) :
    decodeRaw key raw = .error .frame := if_pos h

theorem decodeRaw_long {raw : List Byte} (h : 8 ≤ raw.length) (key : List Byte) :
    decodeRaw key raw = decodeFrom key (BitVec.ofNat 64 (memRead raw 0 8)) (ds false (raw.drop 8)) :=
  if_neg (Nat.not_lt.2 h)

section payload
variable {key pay : List Byte} (identifier : DWord)

theorem decodeFrom_keyError (hpay : pay ≠ []) (hkey : key.length ≠ 16) :
    decodeFrom key identifier pay = .error .key := by
  simp [decodeFrom, decodePayload, Config.keyLen, hpay, hkey, Except.map]

theorem decodeFrom_blockError (hkey : key.length = 16) (hpay : pay.length % 8 ≠ 0) :
    decodeFrom key identifier pay = .error .block := by
  simp [decodeFrom, decodePayload, Config.keyLen, Config.blkLen, hpay, hkey, Except.map]

/-- On whole blocks, and under a 16-byte key unless there is none, the payload is decrypted, encoded and trimmed. -/
theorem decodeFrom_whole (hkey : pay = [] ∨ key.length = 16) (hpay : pay.length % 8 = 0) :
    decodeFrom key identifier pay =
      (trimText (hexenc (decryptAll key pay))).map (DecodedFrame.mk identifier) := by
  have hcheck : ¬ (pay ≠ [] ∧ key.length ≠ 16) := fun ⟨hne, hlen⟩ => hkey.elim hne hlen
  unfold decodeFrom decodePayload
  rw [if_neg (show ¬ (pay ≠ [] ∧ key.length ≠ Config.keyLen) from hcheck),
    if_neg (show ¬ pay.length % Config.blkLen ≠ 0 from not_not.2 hpay)]
  rfl

/-- Without a payload byte there is no text to drop the checksum from, whatever the key (R182, R213). -/
theorem decodeFrom_nil (key : List Byte) : decodeFrom key identifier [] = .error .checksum := by
  rw [decodeFrom_whole identifier (.inl rfl) rfl]; rfl

/-- Encoded whole blocks are long enough to be trimmed. -/
theorem decodeFrom_ok (hne : pay ≠ []) (hkey : key.length = 16) (hpay : pay.length % 8 = 0) :
    decodeFrom key identifier pay =
      .ok ⟨identifier, (hexenc (decryptAll key pay)).take (2 * pay.length - 4)⟩ := by
  have hlen : (hexenc (decryptAll key pay)).length = 2 * pay.length := by
    rw [hexenc_length, decryptAll_length key hpay]
  have hpos := List.length_pos_iff.2 hne
  rw [decodeFrom_whole identifier (.inr hkey) hpay, trimText, hlen, if_neg (by omega)]
  rfl

end payload

/-- Every success of `decode` from the payload on (R212). -/
theorem decodeFrom_eq_ok {key pay : List Byte} {identifier : DWord} {f : DecodedFrame}
    (h : decodeFrom key identifier pay = .ok f) :
    pay ≠ [] ∧ key.length = 16 ∧ pay.length % 8 = 0 ∧
      f = ⟨identifier, (hexenc (decryptAll key pay)).take (2 * pay.length - 4)⟩ := by
  by_cases hne : pay = []
  · rw [hne, decodeFrom_nil] at h; cases h
  by_cases hkey : key.length = 16
  · by_cases hpay : pay.length % 8 = 0
    · rw [decodeFrom_ok identifier hne hkey hpay] at h
      cases h
      exact ⟨hne, hkey, hpay, rfl⟩
    · rw [decodeFrom_blockError identifier hkey hpay] at h; cases h
  · rw [decodeFrom_keyError identifier hne hkey] at h; cases h

/-- Every success of `decode`: good markers around a hex text of the identifier and a payload that decodes. -/
theorem decodePacket_eq_ok {pkt key : List Byte} {f : DecodedFrame} (h : decodePacket pkt key = .ok f) :
    GoodMarkers pkt ∧ ∃ raw, hexdec ((pkt.drop 2).take (pkt.length - 4)) = some raw ∧ 8 ≤ raw.length ∧
      decodeFrom key (BitVec.ofNat 64 (memRead raw 0 8)) (ds false (raw.drop 8)) = .ok f := by
  by_cases hgood : GoodMarkers pkt
  · refine ⟨hgood, ?_⟩
    rw [decodePacket_good hgood] at h
    by_cases htext : HexText ((pkt.drop 2).take (pkt.length - 4))
    · obtain ⟨raw, hraw⟩ := hexText_iff_hexdec.1 htext
      rw [decodeText_of_hexdec hraw] at h
      by_cases hmin : raw.length < 8
      · rw [decodeRaw_short hmin] at h; cases h
      · exact ⟨raw, hraw, Nat.not_lt.1 hmin, by rwa [decodeRaw_long (Nat.not_lt.1 hmin)] at h⟩
    · rw [decodeText_bad htext] at h; cases h
  · rw [decodePacket_bad hgood] at h; cases h

/-- The interior is four characters shorter than a packet that holds both markers. -/
theorem interior_length {pkt : List Byte} (h : 4 ≤ pkt.length) :
    ((pkt.drop 2).take (pkt.length - 4)).length + 4 = pkt.length := by
  rw [List.length_take, List.length_drop]; omega

/-- A packet whose interior decodes has two characters for each byte and four for the markers. -/
theorem packet_length {pkt raw : List Byte} (h : 4 ≤ pkt.length)
    (hraw : hexdec ((pkt.drop 2).take (pkt.length - 4)) = some raw) : pkt.length = 2 * raw.length + 4 := by
  rw [← interior_length h, hexdec_length hraw]

/-- Encoding is byte by byte, so the text cut at a pair is the encoding of the bytes cut there. -/
theorem take_hexenc (bs : List Byte) (n : Nat) : (hexenc bs).take (2 * n) = hexenc (bs.take n) := by
  induction bs generalizing n with
  | nil => simp [hexenc]
  | cons b bs ih =>
    cases n with
    | zero => rfl
    | succ n => simp [hexenc, hexPair, Nat.mul_succ, ih]

/-! ## The table of outcomes and the shape of a success -/

/-- Settles O58: one row of the table per equation of a stage of `decode`. -/
theorem outcomeTable : Obligations.OutcomeTable := by
  intro pkt key text pay
  refine ⟨fun hbad => decodePacket_bad hbad key, fun hgood => ⟨fun hbad => ?_, fun ⟨heven, hdigits⟩ => ?_⟩⟩
  · have hlen : text.length + 4 = pkt.length := interior_length hgood.1
    rw [decodePacket_good hgood, decodeText_bad]
    exact (not_hexText_iff (text := text)).2 (hbad.imp_left fun hodd => by omega)
  have hlen : text.length + 4 = pkt.length := interior_length hgood.1
  obtain ⟨raw, hraw⟩ := hexText_iff_hexdec.1 (show HexText text from ⟨by omega, hdigits⟩)
  have hlen' : pkt.length = 2 * raw.length + 4 := packet_length hgood.1 hraw
  have hpay : pay = ds false (raw.drop 8) := by simp only [pay, hraw, Option.getD_some]
  have hfrom (hmin : 20 ≤ pkt.length) :
      decodeRaw key raw = decodeFrom key (BitVec.ofNat 64 (memRead raw 0 8)) pay := by
    rw [hpay]; exact decodeRaw_long (by omega) key
  rw [decodePacket_good hgood, decodeText_of_hexdec hraw, hraw, Option.getD_some]
  refine ⟨fun hshort => decodeRaw_short (by omega) key, fun hmin hnil => ?_,
    fun hmin hne hkey => (hfrom hmin).trans (decodeFrom_keyError _ hne hkey),
    fun hmin _ hkey hblock => (hfrom hmin).trans (decodeFrom_blockError _ hkey hblock),
    fun hmin hne hkey hwhole => ⟨_, (hfrom hmin).trans (decodeFrom_ok _ hne hkey hwhole), ?_, identifier_toNat raw⟩⟩
  · rw [hfrom hmin, hnil, decodeFrom_nil]
  · rw [List.length_take_of_le]
    rw [hexenc_length, decryptAll_length key hwhole]
    omega

/-- Settles O59. -/
theorem successShape : Obligations.SuccessShape := by
  intro pkt key f h
  obtain ⟨hgood, raw, hraw, hmin, hfrom⟩ := decodePacket_eq_ok h
  obtain ⟨hne, _, hwhole, rfl⟩ := decodeFrom_eq_ok hfrom
  obtain ⟨n, hn⟩ := Nat.dvd_of_mod_eq_zero hwhole
  have hpos := List.length_pos_iff.2 hne
  have hshrink := DestuffProofs.ds_length_le false (raw.drop 8)
  rw [List.length_drop] at hshrink
  have hlen := packet_length hgood.1 hraw
  have hpln : (decryptAll key (ds false (raw.drop 8))).length = 8 * n := (decryptAll_length key hwhole).trans hn
  refine ⟨by omega, by omega, raw, _, _, n, hraw, rfl, by omega, hn, rfl, hpln, ?_, ?_, ?_⟩
  · rw [List.length_take, hexenc_length, hpln, hn]; omega
  · rw [← take_hexenc, hn]
    exact congrArg (List.take · _) (show 2 * (8 * n) - 4 = 2 * (8 * n - 2) by omega)
  · exact fun c hc => hexenc_range (List.mem_of_mem_take hc)

/-- Settles O60: the key takes part in a success by its length only. -/
theorem wrongKeyIsNotDetected : Obligations.WrongKeyIsNotDetected := by
  intro pkt key key' f _ hkey' h
  obtain ⟨hgood, raw, hraw, hmin, hfrom⟩ := decodePacket_eq_ok h
  obtain ⟨hne, _, hwhole, rfl⟩ := decodeFrom_eq_ok hfrom
  have hdecode := decodePacket_good hgood key'
  rw [decodeText_of_hexdec hraw, decodeRaw_long hmin, decodeFrom_ok _ hne hkey' hwhole] at hdecode
  exact ⟨_, hdecode, rfl, by simp only [List.length_take, hexenc_length, decryptAll_length _ hwhole]⟩

end Sys2Proof.CommandProofs
end

section
/-! SUPPORT. The stages against `decode`: each stage operation either ends the command with what `decode` gives or
leaves in its buffer what `decode` goes on with (R203, R210). -/

namespace Sys2Proof.CommandProofs

open Sys2Proof Sys2Proof.Machine Sys2Proof.Laws Sys2Proof.StateProofs Sys2Proof.FrameHexProofs
open Sys2Proof.CipherProofs Sys2Proof.IdentifierProofs Sys2Proof.DestuffProofs

/-- The state holds a partial computation of `decode` with the result `r`: what the rest of `decode` makes of the buffer
the current stage reads. -/
inductive Remaining (pkt key : List Byte) (t : State) : Except ErrorKind DecodedFrame → Prop
  | frame (stage : t.stage = 1#3) : Remaining pkt key t (decodePacket pkt key)
  | hexdec (stage : t.stage = 2#3) : Remaining pkt key t (decodeText key t.txt.live)
  | idext (stage : t.stage = 3#3) : Remaining pkt key t (decodeRaw key t.raw.live)
  | destuff (stage : t.stage = 4#3) : Remaining pkt key t (decodeFrom key t.idr (ds false t.stf.live))
  | cipher (stage : t.stage = 5#3) : Remaining pkt key t (decodeFrom key t.idr t.pay.live)
  | hexenc (stage : t.stage = 6#3) :
      Remaining pkt key t ((trimText (hexenc t.pln.live)).map (DecodedFrame.mk t.idr))
  | trim (stage : t.stage = 7#3) : Remaining pkt key t ((trimText t.hex.live).map (DecodedFrame.mk t.idr))

/-- From `t` to `t'` the computation of `r` has come forward: the command has ended with it, or it goes on. -/
def Proceeds (pkt key : List Byte) (r : Except ErrorKind DecodedFrame) (t t' : State) : Prop :=
  t'.agenda = t.agenda ∧ (t'.busy = false ∧ ShowsResult t' r ∨ t'.busy = t.busy ∧ Remaining pkt key t' r)

/-- The computation does not depend on the model's own fields. -/
theorem Remaining.ownFields {pkt key : List Byte} {t : State} {r : Except ErrorKind DecodedFrame}
    (h : Remaining pkt key t r) (rdata : Word) (free : Nat) (agenda : List Event) :
    Remaining pkt key { t with rdata := rdata, free := free, agenda := agenda } r := by
  cases h with
  | frame stage => exact .frame stage
  | hexdec stage => exact .hexdec stage
  | idext stage => exact .idext stage
  | destuff stage => exact .destuff stage
  | cipher stage => exact .cipher stage
  | hexenc stage => exact .hexenc stage
  | trim stage => exact .trim stage

section stages
variable {pkt key : List Byte} {t : State}

theorem execFrame_proceeds (hpkt : t.packet = some pkt) (hcap : t.inlen.toNat ≤ t.inCap) :
    ∃ t', execFrame t = .next t' ∧ Proceeds pkt key (decodePacket pkt key) t t' := by
  obtain ⟨hgood, hexec⟩ | ⟨hbad, hexec⟩ := execFrame_packet hpkt hcap
  · rw [decodePacket_good hgood]
    exact ⟨_, hexec, rfl, .inr ⟨rfl, .hexdec rfl⟩⟩
  · rw [decodePacket_bad hbad]
    exact ⟨_, hexec, rfl, .inl ⟨rfl, rfl, rfl, rfl⟩⟩

theorem execHexdec_proceeds :
    ∃ t', execHexdec t = .next t' ∧ Proceeds pkt key (decodeText key t.txt.live) t t' := by
  by_cases htext : HexText t.txt.live
  · obtain ⟨raw, nib, hexec, hraw⟩ := execHexdec_of_hexText htext
    rw [decodeText_of_hexdec hraw]
    exact ⟨_, hexec, rfl, .inr ⟨rfl, .idext rfl⟩⟩
  · rw [decodeText_bad htext]
    exact ⟨_, execHexdec_of_not_hexText htext, rfl, .inl ⟨rfl, rfl, rfl, rfl⟩⟩

theorem execIdext_proceeds :
    ∃ t', execIdext t = .next t' ∧ Proceeds pkt key (decodeRaw key t.raw.live) t t' := by
  obtain ⟨hshort, hexec⟩ | ⟨hmin, hexec⟩ := execIdext_cases t
  · rw [decodeRaw_short hshort]
    exact ⟨_, hexec, rfl, .inl ⟨rfl, rfl, rfl, rfl⟩⟩
  · rw [decodeRaw_long hmin]
    exact ⟨_, hexec, rfl, .inr ⟨rfl, .destuff rfl⟩⟩

theorem execDestuff_proceeds :
    ∃ t', execDestuff t = .next t' ∧ Proceeds pkt key (decodeFrom key t.idr (ds false t.stf.live)) t t' := by
  obtain ⟨pay, hpay, hexec⟩ := execDestuff_eq t
  rw [← hpay]
  exact ⟨_, hexec, rfl, .inr ⟨rfl, .cipher rfl⟩⟩

/-- CIPHER at its end leaves the plaintext to HEXENC. -/
theorem proceeds_to_hexenc (pln : Buffer) (k : KeyWords) (cip : Cip) :
    Proceeds pkt key ((trimText (hexenc pln.live)).map (DecodedFrame.mk t.idr)) t
      { t with pln := pln, k := k, cip := cip, cur := 0, stage := 6#3 } :=
  ⟨rfl, .inr ⟨rfl, .hexenc rfl⟩⟩

/-- CIPHER's errors end the command; its own registers are no part of the result. -/
theorem proceeds_to_error (e : ErrorKind) (pln : Buffer) (k : KeyWords) (cip : Cip) (cur : Nat) :
    Proceeds pkt key (.error e) t { endedWith t (errorCode e) with pln := pln, k := k, cip := cip, cur := cur } :=
  ⟨rfl, .inl ⟨rfl, rfl, rfl, rfl⟩⟩

/-- CIPHER's four outcomes are those of `decode`: no chunk, whole blocks, a short chunk, a wrong key length. -/
theorem exec_cipher_proceeds (hlen : t.keylen.toNat = key.length) (hkey : key.length = 16 → t.key = some key) :
    ∃ t', exec .cipher t = .next t' ∧ Proceeds pkt key (decodeFrom key t.idr t.pay.live) t t' := by
  by_cases hne : t.pay.live = []
  · obtain ⟨t', hexec, hpln, ht'⟩ := cipherWithoutChunks t (congrArg List.length hne)
    have hplain : t'.pln.live = decryptAll key t.pay.live := by rw [List.length_eq_zero_iff.1 hpln, hne]; rfl
    rw [decodeFrom_whole _ (.inl hne) (by rw [hne]; rfl), ← hplain]
    exact ⟨t', hexec, by rw [ht']; exact proceeds_to_hexenc t'.pln t.k t.cip⟩
  by_cases hk : key.length = 16
  · have hlen' : t.keylen = 16#32 := BitVec.eq_of_toNat_eq (hlen.trans hk)
    by_cases hwhole : t.pay.live.length % 8 = 0
    · obtain ⟨t', hexec, hplain, _, _, ht'⟩ := cipherCompletes t key hlen' (hkey hk) hwhole
      rw [decodeFrom_whole _ (.inr hk) hwhole, ← hplain]
      exact ⟨t', hexec, by rw [ht']; exact proceeds_to_hexenc t'.pln t'.k t'.cip⟩
    · obtain ⟨t', hexec, ht'⟩ := cipherBlockError t key hlen' (hkey hk) hwhole
      rw [decodeFrom_blockError _ hk hwhole]
      exact ⟨t', hexec, by rw [ht']; exact proceeds_to_error .block t'.pln t'.k t'.cip t'.cur⟩
  · have hlen' : t.keylen ≠ 16#32 := fun h => hk (hlen.symm.trans (congrArg BitVec.toNat h))
    obtain ⟨t', hexec, _, ht'⟩ := cipherKeyError t (mt List.length_eq_zero_iff.1 hne) hlen'
    rw [decodeFrom_keyError _ hne hk]
    exact ⟨t', hexec, by rw [ht']; exact proceeds_to_error .key t'.pln t.k t.cip 0⟩

theorem execHexenc_proceeds : ∃ t', execHexenc t = .next t' ∧
    Proceeds pkt key ((trimText (hexenc t.pln.live)).map (DecodedFrame.mk t.idr)) t t' :=
  ⟨_, rfl, rfl, .inr ⟨rfl, .trim rfl⟩⟩

/-- TRIM commits a text that OUTBUF and OUTLEN can hold. -/
theorem execTrim_proceeds (hroom : t.hex.len ≤ t.inCap) (hwidth : t.hex.len < 2 ^ 32) : ∃ t', execTrim t = .next t' ∧
    Proceeds pkt key ((trimText t.hex.live).map (DecodedFrame.mk t.idr)) t t' := by
  by_cases hshort : t.hex.len < 4
  · rw [trimText, if_pos (show t.hex.live.length < 4 from hshort)]
    exact ⟨_, execTrim_short hshort, rfl, .inl ⟨rfl, rfl, rfl, rfl⟩⟩
  · have hlen : (t.hex.live.take (t.hex.live.length - 4)).length = t.hex.len - 4 :=
      List.length_take_of_le (Nat.sub_le t.hex.len 4)
    rw [trimText, if_neg (show ¬ t.hex.live.length < 4 from hshort)]
    refine ⟨_, execTrim_commits (by omega) (by omega), rfl, .inl ⟨rfl, rfl, rfl, ?_, readRange_writeRange _ 0 _⟩⟩
    rw [hlen, trimmed_outlen, Config.ckChars, BitVec.toNat_ofNat, Nat.mod_eq_of_lt (by omega)]

/-- The stage operation STAGE names completes and brings the computation forward. -/
theorem exec_stage_proceeds {r : Except ErrorKind DecodedFrame} (h : Remaining pkt key t r)
    (hin : HoldsInputs t pkt key) (hcap : t.inlen.toNat ≤ t.inCap)
    (hhex : t.stage = 7#3 → t.hex.len ≤ t.inCap ∧ t.hex.len < 2 ^ 32) :
    ∃ i t', decodeStage t.stage = .ok i ∧ exec i t = .next t' ∧ Proceeds pkt key r t t' := by
  obtain ⟨_, hpkt, hlen, hkey⟩ := hin
  cases h with
  | frame stage => exact ⟨.frame, stage ▸ (execFrame_proceeds hpkt hcap).imp fun _ h => ⟨rfl, h⟩⟩
  | hexdec stage => exact ⟨.hexdec, stage ▸ execHexdec_proceeds.imp fun _ h => ⟨rfl, h⟩⟩
  | idext stage => exact ⟨.idext, stage ▸ execIdext_proceeds.imp fun _ h => ⟨rfl, h⟩⟩
  | destuff stage => exact ⟨.destuff, stage ▸ execDestuff_proceeds.imp fun _ h => ⟨rfl, h⟩⟩
  | cipher stage => exact ⟨.cipher, stage ▸ (exec_cipher_proceeds hlen hkey).imp fun _ h => ⟨rfl, h⟩⟩
  | hexenc stage => exact ⟨.hexenc, stage ▸ execHexenc_proceeds.imp fun _ h => ⟨rfl, h⟩⟩
  | trim stage =>
    obtain ⟨hroom, hwidth⟩ := hhex stage
    exact ⟨.trim, stage ▸ (execTrim_proceeds hroom hwidth).imp fun _ h => ⟨rfl, h⟩⟩

end stages

end Sys2Proof.CommandProofs
end

section
/-! SUPPORT. The run of a command: what holds at every turn of the Engine between an accepted START and the end, that a
turn comes one stage nearer to the end, and that the host's moves keep it so (R203, R204, R210, R260). -/

namespace Sys2Proof.CommandProofs

open Sys2Proof Sys2Proof.Machine Sys2Proof.Laws Sys2Proof.StateProofs Sys2Proof.MemoryProofs

/-- The command that START began in `s` runs in `t`: the host-visible state is as START left it, and what is left to
compute is what `decode` gives. -/
structure Running (s : State) (pkt key : List Byte) (t : State) : Prop where
  work : EngineWork s.accept t
  lengths : LengthsOk t
  remaining : Remaining pkt key t (decodePacket pkt key)

section running
variable {s t : State} {pkt key : List Byte}

/-- An accepted START sets the command running, whatever comes next. -/
theorem running_accept (h : LaunchPremise s) (pkt key : List Byte) (es : List Event) :
    Running s pkt key (State.accept { s with agenda := es }) where
  work := by constructor <;> rfl
  lengths := lengthsOk_accept (s := { s with agenda := es }) h
  remaining := .frame rfl

theorem Running.busy (h : Running s pkt key t) : t.busy = true := h.work.busy

theorem Running.ownFields (h : Running s pkt key t) (rdata : Word) (free : Nat) (agenda : List Event) :
    Running s pkt key { t with rdata := rdata, free := free, agenda := agenda } :=
  have own := StaysInStage.of_ownFields t rdata free agenda
  ⟨h.work.trans own.work, own.lengths h.lengths, h.remaining.ownFields rdata free agenda⟩

/-- The inputs of a running command are those START found. -/
theorem Running.holdsInputs (h : Running s pkt key t) (hin : HoldsInputs s pkt key) : HoldsInputs t pkt key := by
  unfold HoldsInputs
  rw [h.work.inlen, h.work.packet, h.work.keylen, h.work.key]
  exact hin

/-- The text TRIM meets is shorter than the packet: the capacity plays a part in R64 by bounding INLEN only. -/
theorem hex_len_lt_inlen (h : LengthsOk t) (hb : t.busy = true) (hs : t.stage = 7#3) : t.hex.len < t.inlen.toNat := by
  have hfits := hex_fits (s := { t with inCap := t.inlen.toNat })
    ⟨fun _ => Nat.le_refl _, h.txt, h.raw, h.stf, h.pay, h.pln, h.hex⟩ hb hs
  dsimp only at hfits
  omega

/-- A turn of the Engine ends the command with what `decode` gives, or completes the current stage. -/
theorem Running.turn (h : Running s pkt key t) (hin : HoldsInputs s pkt key) :
    ∃ t', engineStep t = .next t' ∧ t'.agenda = t.agenda ∧
      (CommandEnded s t' pkt key ∨ Running s pkt key t' ∧ t'.stage.toNat = t.stage.toNat + 1) := by
  have hcap := h.lengths.inlen h.busy
  obtain ⟨i, t', hd, hexec, hagenda, hgoes⟩ := exec_stage_proceeds h.remaining (h.holdsInputs hin) hcap fun hs => by
    have := hex_len_lt_inlen h.lengths h.busy hs
    omega
  refine ⟨t', (engineStep_busy h.busy hd).trans hexec, hagenda, ?_⟩
  obtain ⟨hinbuf, hinlen, hkeybuf, hkeylen, _⟩ := instructionsKeepTheInputs i t t' hexec
  have ended (hdone : t'.done = true) (hidle : t'.busy = false) (hstage : t'.stage = 0#3) :
      CommandEnded s t' pkt key := by
    obtain ⟨_, hresult⟩ | ⟨hrunning, _⟩ := hgoes
    · exact ⟨hidle, hdone, hstage, hresult, hinbuf.trans h.work.inbuf, hinlen.trans h.work.inlen,
        hkeybuf.trans h.work.keybuf, hkeylen.trans h.work.keylen⟩
    · exact absurd (hidle.symm.trans (hrunning.trans h.busy)) (by decide)
  cases exec_stage_ends hd hexec with
  | raised => exact .inl (ended rfl rfl rfl)
  | trimmed => exact .inl (ended rfl rfl rfl)
  | advanced _ work notLast stage _ lengths =>
    obtain ⟨hidle, _⟩ | ⟨_, hremaining⟩ := hgoes
    · exact absurd (hidle.symm.trans (work.busy.trans h.busy)) (by decide)
    · refine .inr ⟨⟨h.work.trans work, lengths rfl h.lengths, hremaining⟩, ?_⟩
      rw [stage]
      bv_omega

/-- A defined host move keeps the command running in its stage (R71, R202, R260). -/
theorem Running.host (h : Running s pkt key t) {m : HostMove} {rest : List Event} (ha : t.agenda = .host m :: rest)
    (hev : RunningEvent s.inCap (.host m)) :
    ∃ t', step t = .next t' ∧ t'.agenda = rest ∧ t'.stage = t.stage ∧ Running s pkt key t' := by
  rw [show s.inCap = t.inCap from h.work.inCap.symm] at hev
  cases m with
  | read w off =>
    cases hv : readPlace t (place t.inCap off) with
    | none => exact ⟨_, step_read_free ha hev hv, rfl, rfl, h.ownFields _ _ rest⟩
    | some v => exact ⟨_, step_read_value ha hev hv, rfl, rfl, h.ownFields v t.free rest⟩
  | write w off v => exact ⟨_, step_write_busy ha hev h.busy, rfl, rfl, h.ownFields t.rdata t.free rest⟩

end running

/-! ## The end of the run -/

/-- The run from `t` ends the command of `s` in at most `k` steps, and BUSY is 1 at every step before. -/
def EndsWithin (s : State) (pkt key : List Byte) (k : Nat) (t : State) : Prop :=
  ∃ n t', n ≤ k ∧ Sys2Proof.core.run n t = .next t' ∧ CommandEnded s t' pkt key ∧
    ∀ m, m < n → ∃ v, Sys2Proof.core.run m t = .next v ∧ v.busy = true

/-- A run after a step that completes goes on from its state. -/
theorem run_of_step {t t' : State} (h : step t = .next t') (n : Nat) :
    Sys2Proof.core.run (n + 1) t = Sys2Proof.core.run n t' := by
  rw [run_succ, h]

/-- With nothing due an idle CORE stays as it is. -/
theorem run_idle {t : State} (hb : t.busy = false) (ha : t.agenda = []) (n : Nat) :
    Sys2Proof.core.run n t = .next t := by
  induction n with
  | zero => rfl
  | succ n ih => rw [run_of_step ((step_empty ha).trans (engineStep_idle hb)), ih]

section ends
variable {s t : State} {pkt key : List Byte}

theorem EndsWithin.of_ended (h : CommandEnded s t pkt key) (k : Nat) : EndsWithin s pkt key k t :=
  ⟨0, t, Nat.zero_le k, rfl, h, fun _ hm => absurd hm (Nat.not_lt_zero _)⟩

theorem EndsWithin.of_step {t' : State} {k : Nat} (hb : t.busy = true) (hstep : step t = .next t')
    (h : EndsWithin s pkt key k t') : EndsWithin s pkt key (k + 1) t := by
  obtain ⟨n, u, hn, hrun, hended, hbefore⟩ := h
  refine ⟨n + 1, u, Nat.succ_le_succ hn, (run_of_step hstep n).trans hrun, hended, fun m hm => ?_⟩
  cases m with
  | zero => exact ⟨t, rfl, hb⟩
  | succ m =>
    obtain ⟨v, hv, hvb⟩ := hbefore m (Nat.lt_of_succ_lt_succ hm)
    exact ⟨v, (run_of_step hstep m).trans hv, hvb⟩

/-- An agenda of the Engine's turns and defined host moves, with a turn for every stage left, ends the command. -/
theorem Running.endsWithin {es : List Event} (h : Running s pkt key t) (hin : HoldsInputs s pkt key)
    (ha : t.agenda = es) (hes : ∀ e ∈ es, RunningEvent s.inCap e) (hturns : 8 ≤ t.stage.toNat + es.count .engine) :
    EndsWithin s pkt key es.length t := by
  induction es generalizing t with
  | nil =>
    have hlast := t.stage.isLt
    rw [List.count_nil] at hturns
    omega
  | cons e rest ih =>
    obtain ⟨he, hrest⟩ := List.forall_mem_cons.1 hes
    match e with
    | .engine =>
      obtain ⟨t', hturn, hagenda, hended | ⟨hrunning, hstage⟩⟩ := (h.ownFields t.rdata t.free rest).turn hin
      · exact .of_step h.busy ((step_engine ha).trans hturn) (.of_ended hended _)
      · rw [List.count_cons_self] at hturns
        exact .of_step h.busy ((step_engine ha).trans hturn)
          (ih hrunning hagenda hrest (by dsimp only at hstage; omega))
    | .host m =>
      obtain ⟨t', hstep, hagenda, hstage, hrunning⟩ := h.host ha he
      rw [List.count_cons_of_ne (by simp), ← hstage] at hturns
      exact .of_step h.busy hstep (ih hrunning hagenda hrest hturns)

/-- With nothing else due, a turn for every stage left ends the command, and the rest of the run leaves it so. -/
theorem Running.run_alone {k : Nat} (h : Running s pkt key t) (hin : HoldsInputs s pkt key) (ha : t.agenda = [])
    (hturns : 8 ≤ t.stage.toNat + k) : ∃ t', Sys2Proof.core.run k t = .next t' ∧ CommandEnded s t' pkt key := by
  induction k generalizing t with
  | zero => have hlast := t.stage.isLt; omega
  | succ k ih =>
    obtain ⟨t', hturn, hagenda, hended | ⟨hrunning, hstage⟩⟩ := h.turn hin
    · exact ⟨t', (run_of_step ((step_empty ha).trans hturn) k).trans (run_idle hended.1 (hagenda.trans ha) k), hended⟩
    · rw [run_of_step ((step_empty ha).trans hturn)]
      exact ih hrunning (hagenda.trans ha) (by omega)

/-- A turn of the Engine for every stage left ends the command. -/
theorem Running.engineTurns {k : Nat} (h : Running s pkt key t) (hin : HoldsInputs s pkt key)
    (hturns : 8 ≤ t.stage.toNat + k) :
    ∃ n t', n ≤ k ∧ Machine.engineTurns n t = .next t' ∧ CommandEnded s t' pkt key := by
  induction k generalizing t with
  | zero => have hlast := t.stage.isLt; omega
  | succ k ih =>
    obtain ⟨t', hturn, _, hended | ⟨hrunning, hstage⟩⟩ := h.turn hin
    · exact ⟨1, t', by omega, by simp [Machine.engineTurns, hturn], hended⟩
    · obtain ⟨n, u, hn, hturns', hended⟩ := ih hrunning (by omega)
      exact ⟨n + 1, u, Nat.succ_le_succ hn, by simp [Machine.engineTurns, hturn, hturns'], hended⟩

end ends

/-! ## The command -/

/-- The step that takes START from the agenda. -/
theorem step_start {s : State} (h : LaunchPremise s) (es : List Event) :
    step { s with agenda := .host (.write .w32 0 1#32) :: es } = .next (State.accept { s with agenda := es }) := by
  obtain ⟨_, _, hstart⟩ := EncodingProofs.stepRunsCommand
    { s with agenda := .host (.write .w32 0 1#32) :: es } 1#32 es rfl
  rw [hstart (by decide), exec_start]
  exact execStart_accepts (s := { s with agenda := es }) h 0#31

/-- Inside the launch premise there are a packet and a key; of a key that is not 16 bytes long only the length counts
(R172). -/
theorem exists_inputs {s : State} (h : LaunchPremise s) : ∃ pkt key, HoldsInputs s pkt key := by
  obtain ⟨_, _, hpacket, hkey⟩ := h
  obtain ⟨pkt, hpkt⟩ := Option.isSome_iff_exists.1 hpacket
  have hlen : s.inlen.toNat = pkt.length := (readRange_length hpkt).symm
  by_cases hk : s.keylen.toNat = Config.keyLen
  · obtain ⟨key, hkey⟩ := Option.isSome_iff_exists.1 (hkey hk)
    exact ⟨pkt, key, hlen, hpkt, hk.trans (readRange_length hkey).symm, fun _ => hkey⟩
  · refine ⟨pkt, List.replicate s.keylen.toNat 0#8, hlen, hpkt, List.length_replicate.symm, fun hk' => ?_⟩
    exact absurd (List.length_replicate.symm.trans hk') hk

/-- Settles O55: START sets the command running, and seven turns of the Engine are one for each stage, alone or among
the host's moves. -/
theorem commandComputesDecode : Obligations.CommandComputesDecode := by
  intro s pkt key hlaunch hin
  refine ⟨?_, fun es hes hturns => ?_⟩
  · obtain ⟨t, hrun, hended⟩ := (running_accept hlaunch pkt key []).run_alone (k := 7) hin rfl (le_refl 8)
    exact ⟨t, (run_of_step (step_start hlaunch []) 7).trans hrun, hended⟩
  · obtain ⟨n, t, hn, hrun, hended, hbefore⟩ :=
      (running_accept hlaunch pkt key es).endsWithin hin rfl hes (show 8 ≤ 1 + es.count .engine by omega)
    have hstart := run_of_step (step_start hlaunch es)
    exact ⟨n, t, hn, (hstart n).trans hrun, hended, fun m hm => by rw [hstart m]; exact hbefore m hm⟩

/-- Settles O56. -/
theorem commandTerminates : Obligations.CommandTerminates := by
  intro s u ignored hlaunch hexec
  obtain ⟨pkt, key, hin⟩ := exists_inputs hlaunch
  obtain rfl := Host.Outcome.next.inj ((execStart_accepts hlaunch ignored).symm.trans hexec)
  obtain ⟨n, t, hn, hturns, hidle, hdone, hstage, _⟩ :=
    (running_accept hlaunch pkt key s.agenda).engineTurns (k := 7) hin (le_refl 8)
  exact ⟨n, t, hn, hturns, hdone, hidle, hstage⟩

end Sys2Proof.CommandProofs
end

section
/-! SUPPORT. Errors: what each instruction can do to ERR (R221), and how an error ends the command (R230). -/

namespace Sys2Proof.ErrorProofs

open Sys2Proof Sys2Proof.Machine Sys2Proof.Laws Sys2Proof.StateProofs Sys2Proof.DestuffProofs

/-- The matrix of R221: the errors an instruction may raise. A marker token raises FRAME's error (R105). -/
inductive MatrixAllows : Instr → ErrorKind → Prop
  | sof (lowerCase : Bool) : MatrixAllows (.sof lowerCase) .frame
  | eofm (lowerCase : Bool) : MatrixAllows (.eofm lowerCase) .frame
  | frame : MatrixAllows .frame .frame
  | idext : MatrixAllows .idext .frame
  | hexdec : MatrixAllows .hexdec .encoding
  | key : MatrixAllows .cipher .key
  | block : MatrixAllows .cipher .block
  | trim : MatrixAllows .trim .checksum

/-- The matrix by the codes of R220. -/
theorem MatrixAllows.code {i : Instr} {e : ErrorKind} (h : MatrixAllows i e) :
    (errorCode e = 1#3 ∧ (i = .frame ∨ i = .idext ∨ ∃ c, i = .sof c ∨ i = .eofm c)) ∨
    (errorCode e = 2#3 ∧ i = .hexdec) ∨ ((errorCode e = 3#3 ∨ errorCode e = 4#3) ∧ i = .cipher) ∨
    (errorCode e = 5#3 ∧ i = .trim) := by
  cases h <;> simp [errorCode]

/-- What an instruction does to ERR: it keeps it, clears it, or takes an error of the matrix after at most the Engine's
own work. -/
inductive ErrEffect (i : Instr) (s : State) : State → Prop
  | kept (t : State) (err : t.err = s.err) : ErrEffect i s t
  | cleared (t : State) (err : t.err = 0#3) : ErrEffect i s t
  | raised (u : State) (e : ErrorKind) (allowed : MatrixAllows i e) (work : EngineWork s u) : ErrEffect i s (u.raise e)

/-- The Engine's own work before an instruction plays no part in what it does to ERR. -/
theorem ErrEffect.of_work {i : Instr} {s s' t : State} (work : EngineWork s s') (h : ErrEffect i s' t) :
    ErrEffect i s t := by
  cases h with
  | kept _ err => exact .kept t (err.trans work.err)
  | cleared _ err => exact .cleared t err
  | raised u e allowed work' => exact .raised u e allowed (work.trans work')

/-- A stage that rewinds the cursor and then takes an error of the matrix. -/
theorem ErrEffect.rejected {i : Instr} {e : ErrorKind} (allowed : MatrixAllows i e) (s : State) :
    ErrEffect i s (s.enter.raise e) :=
  .raised _ e allowed (.of_registers ..)

/-! ## The instructions, group by group -/

theorem takeMarker_errEffect {i : Instr} (allowed : MatrixAllows i .frame) (s : State) (position : Nat) :
    ErrEffect i s (s.takeMarker position) := by
  obtain ⟨_, _, h⟩ | ⟨_, h⟩ := takeMarker_cases s position <;> rw [h]
  · exact .kept _ rfl
  · exact .raised s .frame allowed (.of_registers ..)

theorem execStart_errEffect {ignored : BitVec 31} {s t : State} (h : execStart ignored s = .next t) :
    ErrEffect (.start ignored) s t := by
  obtain ⟨_, he⟩ | ⟨_, _, he⟩ | ⟨_, _, _, he⟩ | ⟨_, _, _, _, he⟩ := execStart_cases ignored s <;> rw [he] at h <;> cases h
  · exact .kept s rfl
  · exact .cleared _ rfl

theorem execFrame_errEffect {s t : State} (h : execFrame s = .next t) : ErrEffect .frame s t := by
  obtain hf | ⟨_, _, _, hf⟩ | ⟨_, hf⟩ | hf := execFrame_cases s <;> rw [hf] at h <;> cases h
  · exact .rejected .frame s
  · exact .kept _ rfl

theorem execHexdec_errEffect {s t : State} (h : execHexdec s = .next t) : ErrEffect .hexdec s t := by
  obtain hf | ⟨digits, _, _, hf⟩ := execHexdec_cases s <;> rw [hf] at h <;> cases h
  · exact .rejected .hexdec s
  · obtain ⟨_, _, _, hfold, _⟩ := foldl_takeNibble digits { s with raw := s.raw.clear, cur := 0 }
    rw [hfold]
    exact .kept _ rfl

theorem execIdext_errEffect {s t : State} (h : execIdext s = .next t) : ErrEffect .idext s t := by
  obtain ⟨_, hf⟩ | ⟨_, hf⟩ := execIdext_cases s <;> rw [hf] at h <;> cases h
  · exact .rejected .idext s
  · exact .kept _ rfl

theorem execDestuff_errEffect {s t : State} (h : execDestuff s = .next t) : ErrEffect .destuff s t := by
  obtain ⟨_, _, hexec⟩ := execDestuff_eq s
  rw [hexec] at h
  cases h
  exact .kept _ rfl

/-- The loop checks the key, then the chunk, at each entry; the blocks before only change the Engine's registers. -/
theorem cipherLoop_errEffect {cs : List (List Byte)} {s t : State} (h : cipherLoop cs s = .next t) :
    ErrEffect .cipher s t := by
  induction cs generalizing s with
  | nil => cases h; exact .kept _ rfl
  | cons chunk rest ih =>
    obtain ⟨_, hl⟩ | ⟨_, _, hl⟩ | ⟨_, _, _, hl⟩ | ⟨key, _, _, _, hl⟩ := cipherLoop_cons chunk rest s <;> rw [hl] at h
    · cases h; exact .raised s .key .key (.of_registers ..)
    · cases h; exact .raised s .block .block (.of_registers ..)
    · cases h
    · exact (ih h).of_work (.of_registers ..)

theorem execCipher_errEffect {s t : State} (h : execCipher s = .next t) : ErrEffect .cipher s t :=
  (cipherLoop_errEffect h).of_work (.of_registers ..)

theorem execTrim_errEffect {s t : State} (h : execTrim s = .next t) : ErrEffect .trim s t := by
  obtain ⟨_, hf⟩ | ⟨_, _, hf⟩ | ⟨_, _, hf⟩ := execTrim_cases s <;> rw [hf] at h <;> cases h
  · exact .rejected .trim s
  · exact .cleared _ rfl

/-- Every row of the opcode table: the instructions outside the matrix keep or clear ERR. -/
theorem exec_errEffect {i : Instr} {s t : State} (h : exec i s = .next t) : ErrEffect i s t := by
  cases i with
  | hex0 | hex1 | hex2 | hex3 | hex4 | hex5 | hex6 | hex7 | hex8 | hex9
  | hexUcA | hexUcB | hexUcC | hexUcD | hexUcE | hexUcF
  | hexLcA | hexLcB | hexLcC | hexLcD | hexLcE | hexLcF => cases h; exact .kept _ (takeNibble_work s _).err
  | sof lowerCase => cases h; exact takeMarker_errEffect (.sof lowerCase) s _
  | eofm lowerCase => cases h; exact takeMarker_errEffect (.eofm lowerCase) s _
  | lit | escOpen | escSelf | escDec | escChain | escEnd => cases h; exact .kept _ rfl
  | start => exact execStart_errEffect h
  | frame => exact execFrame_errEffect h
  | hexdec => exact execHexdec_errEffect h
  | idext => exact execIdext_errEffect h
  | destuff => exact execDestuff_errEffect h
  | cipher => exact execCipher_errEffect h
  | hexenc => cases h; exact .kept _ rfl
  | trim => exact execTrim_errEffect h

/-! ## The statement -/

/-- Settles O39: from a clear ERR a code can only come from an error of the matrix. -/
theorem errorsFollowTheMatrix : Obligations.ErrorsFollowTheMatrix := by
  intro i s t hclear hexec hset
  cases exec_errEffect hexec with
  | kept _ err => exact absurd (err.trans hclear) hset
  | cleared _ err => exact absurd err hset
  | raised u e allowed work => exact ⟨allowed.code, rfl, rfl, rfl, rfl, rfl, work.outbuf⟩

end Sys2Proof.ErrorProofs
end

section
/-! SUPPORT. Reset (R250, R55), and that a command's result is a function of its inputs alone (R256): each of two
commands ends with what `decode` gives, and what `decode` gives fixes every host-visible piece of the result. -/

namespace Sys2Proof.HazardProofs

open Sys2Proof Sys2Proof.Machine Sys2Proof.Laws Sys2Proof.CommandProofs

/-! ## Reset -/

/-- Settles O48: the step that takes Reset leaves the reset values, whatever the state was. -/
theorem resetFromAnyState : Obligations.ResetFromAnyState := by
  intro s rest ha
  refine ⟨_, step_reset ha, ?_⟩
  simp [State.reset, Buffer.empty, Buffer.len, doneWire, Memory.read]

/-! ## Equal inputs -/

/-- Holding a packet and a key is a matter of the inputs of R256 alone. -/
theorem holdsInputs_of_equal_inputs {s1 s2 : State} {pkt key : List Byte} (hin : HoldsInputs s1 pkt key)
    (hinlen : s1.inlen = s2.inlen) (hpacket : s1.packet = s2.packet) (hkeylen : s1.keylen = s2.keylen)
    (hkey : s1.keylen = 16#32 → s1.key = s2.key) : HoldsInputs s2 pkt key := by
  obtain ⟨hlen, hpkt, hklen, hkeyHeld⟩ := hin
  refine ⟨hinlen ▸ hlen, hpacket ▸ hpkt, hkeylen ▸ hklen, fun hk => ?_⟩
  have hsixteen : s1.keylen = 16#32 := BitVec.eq_of_toNat_eq (hklen.trans hk)
  exact (hkey hsixteen).symm.trans (hkeyHeld hk)

/-- What `decode` gives fixes ERR, IDENT, OUTLEN and `OUTBUF[0..OUTLEN)`. -/
theorem result_unique {t1 t2 : State} {r : Except ErrorKind DecodedFrame} (h1 : ShowsResult t1 r)
    (h2 : ShowsResult t2 r) : t1.err = t2.err ∧ t1.ident = t2.ident ∧ t1.outlen = t2.outlen ∧
      t1.outbuf.readRange 0 t1.outlen.toNat = t2.outbuf.readRange 0 t2.outlen.toNat := by
  cases r with
  | ok f =>
    obtain ⟨herr1, hident1, houtlen1, hout1⟩ := h1
    obtain ⟨herr2, hident2, houtlen2, hout2⟩ := h2
    refine ⟨herr1.trans herr2.symm, hident1.trans hident2.symm,
      BitVec.eq_of_toNat_eq (houtlen1.trans houtlen2.symm), ?_⟩
    rw [houtlen1, houtlen2, hout1, hout2]
  | error e =>
    obtain ⟨herr1, hident1, houtlen1⟩ := h1
    obtain ⟨herr2, hident2, houtlen2⟩ := h2
    refine ⟨herr1.trans herr2.symm, hident1.trans hident2.symm, houtlen1.trans houtlen2.symm, ?_⟩
    rw [houtlen1, houtlen2]
    rfl

/-- STATUS is made of its three flags and nothing else. -/
theorem statusWord_congr {t1 t2 : State} (hbusy : t1.busy = t2.busy) (hdone : t1.done = t2.done)
    (herr : t1.err = t2.err) : statusWord t1 = statusWord t2 := by
  rw [statusWord, statusWord, hbusy, hdone, herr]

/-- Settles O57: both commands end with what `decode` gives on the packet and the key the two states share. -/
theorem commandsAreStateless : Obligations.CommandsAreStateless := by
  intro s1 s2 hlaunch1 hlaunch2 hinlen hpacket hkeylen hkey
  obtain ⟨pkt, key, hin1⟩ := exists_inputs hlaunch1
  have hin2 := holdsInputs_of_equal_inputs hin1 hinlen hpacket hkeylen hkey
  obtain ⟨t1, hrun1, hidle1, hdone1, _, hresult1, _⟩ := (commandComputesDecode s1 pkt key hlaunch1 hin1).1
  obtain ⟨t2, hrun2, hidle2, hdone2, _, hresult2, _⟩ := (commandComputesDecode s2 pkt key hlaunch2 hin2).1
  obtain ⟨herr, hident, houtlen, houtbuf⟩ := result_unique hresult1 hresult2
  have hstatus := statusWord_congr (hidle1.trans hidle2.symm) (hdone1.trans hdone2.symm) herr
  exact ⟨t1, t2, hrun1, hrun2, hdone1, hdone2, hstatus, hident, houtlen, houtbuf⟩

end Sys2Proof.HazardProofs
end
